-- ==== Sys2Proof/Word.lean ====
section
/-! DEFINITION. The word types of the LED frame block (spec/00_scope.md R5, R9): a byte is 8 bits, a host register and a
command word are 16 bits, a row of the frame buffer read as one value is 32 bits. Every value is unsigned (R9). -/

namespace Sys2Proof

/-- A byte of the frame buffer, of the staging buffer or of the driver chain (00_scope R5: "byte width 8 bits"). -/
abbrev Byte := BitVec 8

/-- A host register or a command word (00_scope R6 CMD_WIDTH, 20_memory R30). -/
abbrev Word := BitVec 16

/-- The four bytes of one layer as one value, byte 0 least significant (20_memory R28, `rowval`). -/
abbrev RowValue := BitVec 32

end Sys2Proof
end

