-- ==== Sys2Proof/Syntax.lean ====
section
/-! DEFINITION. The ten commands of spec/30_encoding.md R43, one constructor a row of the opcode table. The layer and the
pixel position are natural numbers, as in the abstract operation interface of 00_scope R11; a word of the command port can
only carry layers below 16 and positions below 32 (30_encoding R42), and `WellFormed.lean` says so. -/

namespace Sys2Proof

/-- A command of the block (30_encoding R43). -/
inductive Instr where
  /-- CLR: `clear()` (40_framebuffer R51). -/
  | clr
  /-- SETPIX L, X, ON, F: `setPixel(layer, x, on)`, with a flush after it where F = 1 (R52, R53). -/
  | setpix (l x : Nat) (on f : Bool)
  /-- GETPIX L, X: `getPixel(layer, x)` (R54, R55). -/
  | getpix (l x : Nat)
  /-- SETROW L, ON: `setRow(layer, on)` (R56). -/
  | setrow (l : Nat) (on : Bool)
  /-- SETCOL X, ON: `setColumn(x, on)` (R57). -/
  | setcol (x : Nat) (on : Bool)
  /-- INV: `invert()` (R58). -/
  | inv
  /-- SHR: `shiftRight()` (R59, R60). -/
  | shr
  /-- SHD: `shiftDown()` (R61). -/
  | shd
  /-- LOAD: the header of `loadBitmap(data)` (R62). -/
  | load
  /-- FLUSH: `flush(frameBuffer)` (41_display_transmit R67). -/
  | flush
  deriving DecidableEq, Repr

end Sys2Proof
end

