-- ==== Sys2Proof/WellFormed.lean ====
section
/-! DEFINITION. Which commands the encoding can carry: "Each field is exactly as wide as the source's range: layer in [0,16)
and x in [0,32)" (spec/30_encoding.md R42). -/

namespace Sys2Proof

/-- The operand ranges of 30_encoding R42. -/
def Instr.wellFormed : Instr → Bool
  | .clr => true
  | .setpix l x _ _ => decide (l < 16) && decide (x < 32)
  | .getpix l x => decide (l < 16) && decide (x < 32)
  | .setrow l _ => decide (l < 16)
  | .setcol x _ => decide (x < 32)
  | .inv => true
  | .shr => true
  | .shd => true
  | .load => true
  | .flush => true

end Sys2Proof
end

