-- ==== Sys2Proof/Decode.lean ====
section
/-! DEFINITION. The command decoder, by the table of spec/30_encoding.md R43 and the loop of R44, and after it the encoder, by
the formats of R41 and the assembler table of R48. Decoding is total on all 65536 words; a word that matches no row decodes to
`Illegal(w)` (R44, R45). -/

namespace Sys2Proof

/-- What a word decodes to (30_encoding R44). -/
inductive Command where
  /-- The word matches a row of the opcode table. -/
  | legal (i : Instr)
  /-- `Illegal(w)`: a reserved OP or a nonzero reserved bit (R45). -/
  | illegal (w : Word)
  deriving DecidableEq, Repr

/-- `L = w[11:8]`, unsigned (R42). -/
def fieldL (w : Word) : Nat := (w.extractLsb' 8 4).toNat

/-- `X = w[7:3]`, unsigned (R42). -/
def fieldX (w : Word) : Nat := (w.extractLsb' 3 5).toNat

/-- `ON = w[2]` (R42). -/
def fieldOn (w : Word) : Bool := w.getLsbD 2

/-- `F = w[1]` (R42). -/
def fieldF (w : Word) : Bool := w.getLsbD 1

/-- One row of the opcode table (R43): the bits the row fixes, their values, and the command with its fields read. -/
structure OpcodeRow where
  mask : Word
  pattern : Word
  command : Word → Instr

/-- The opcode table of R43, rows in its order, match and mask as it prints them. -/
def opcodeTable : List OpcodeRow := [
  ⟨0xFFFF, 0x1000, fun _ => .clr⟩,
  ⟨0xF001, 0x2000, fun w => .setpix (fieldL w) (fieldX w) (fieldOn w) (fieldF w)⟩,
  ⟨0xF007, 0x3000, fun w => .getpix (fieldL w) (fieldX w)⟩,
  ⟨0xF0FB, 0x4000, fun w => .setrow (fieldL w) (fieldOn w)⟩,
  ⟨0xFF03, 0x5000, fun w => .setcol (fieldX w) (fieldOn w)⟩,
  ⟨0xFFFF, 0x6000, fun _ => .inv⟩,
  ⟨0xFFFF, 0x7000, fun _ => .shr⟩,
  ⟨0xFFFF, 0x8000, fun _ => .shd⟩,
  ⟨0xFFFF, 0x9000, fun _ => .load⟩,
  ⟨0xFFFF, 0xA000, fun _ => .flush⟩]

/-- `(w & mask) = match` (R44). -/
def OpcodeRow.hits (r : OpcodeRow) (w : Word) : Bool := w &&& r.mask == r.pattern

/-- The decoder of R44: the first row that the word matches, else `Illegal(w)`. -/
def decode (w : Word) : Command :=
  match opcodeTable.find? (·.hits w) with
  | some r => .legal (r.command w)
  | none => .illegal w

/-- One bit of a command word. -/
def bitAt (b : Bool) (pos : Nat) : Word := (BitVec.ofBool b).setWidth 16 <<< pos

/-- A field of a command word with its least significant bit at `pos`. -/
def fieldAt (v width pos : Nat) : Word := (BitVec.ofNat width v).setWidth 16 <<< pos

/-- The encoder, by the formats Z, P, G, W and C of R41 and the rows of R48. -/
def encode : Instr → Word
  | .clr => 0x1000
  | .setpix l x on f => 0x2000 ||| fieldAt l 4 8 ||| fieldAt x 5 3 ||| bitAt on 2 ||| bitAt f 1
  | .getpix l x => 0x3000 ||| fieldAt l 4 8 ||| fieldAt x 5 3
  | .setrow l on => 0x4000 ||| fieldAt l 4 8 ||| bitAt on 2
  | .setcol x on => 0x5000 ||| fieldAt x 5 3 ||| bitAt on 2
  | .inv => 0x6000
  | .shr => 0x7000
  | .shd => 0x8000
  | .load => 0x9000
  | .flush => 0xA000

/-- The instruction of a command, none for `Illegal(w)`. -/
def Command.instr? : Command → Option Instr
  | .legal i => some i
  | .illegal _ => none

/-- The word of the command port that a table word stands for: its `nbits` bits with zeros above them (a command is one
16-bit word, R41). -/
def tableWord (nbits w : Nat) : Word := BitVec.ofNat 16 (w % 2 ^ nbits)

/-- The instruction the decoder reads from a word numbered as the opcode table numbers it; none where the decoder answers
`Illegal(w)`, and none for bits that do not fit one 16-bit command word. -/
def decodeTableWord (nbits w : Nat) : Option Instr :=
  if w % 2 ^ nbits < 65536 then (decode (tableWord nbits w)).instr? else none

end Sys2Proof
end

