-- ==== Sys2Proof/Config.lean ====
section
/-! DEFINITION. What the spec leaves OPEN (spec/00_scope.md R6): constants with no body, so that no proof can learn their
values, and a statement about them holds whatever they are. The parameter TX_TIMEOUT is not here: it stands in State as plain
data that no step changes (log 7). T_HOLD_MIN, F_SCK and the PWM period are timing and do not appear (log 15). -/

namespace Sys2Proof.Config

/-- The order of the 8 bits of a byte on the serial wire (00_scope R6 BIT_ORDER, 20_memory R29). -/
inductive BitOrder where
  | msbFirst
  | lsbFirst
  deriving DecidableEq, Repr, Inhabited

/-- FREE VALUES, DESIGN CHOICE (log 4, safe for claims about one run): `freeBits n` is what the spec calls the n-th draw,
"any value" (93_implementation_defined §2). The machine counts its draws in `State.draws` and never draws twice from one
number. -/
opaque freeBits : Nat → BitVec 512

/-- BIT_ORDER, OPEN (20_memory R29, 92 D15; log 11). -/
opaque bitOrder : BitOrder

/-- LED_MAP, OPEN (41 R75, 92 D23; log 11): the physical LED driven by bit `i` of chain stage `j`. It depends on the bit
order. -/
opaque ledMap : (order : BitOrder) → (j i : Nat) → Nat

/-- LED_POLARITY, OPEN (41 R75, 92 D23; log 11): the latched level that lights an LED. -/
opaque litLevel : Bool

/-- The free part of DUTY (42 R87, 92 D18; log 10); `Machine.duty` adds the one limit the spec sets. -/
opaque freeDuty : Byte → Rat

/-- BASE, OPEN (20_memory R34, 92 D1; log 14): where the host platform puts the four registers. -/
opaque base : Nat

end Sys2Proof.Config
end

