-- ==== Sys2Proof/Machine/State.lean ====
section
/-! DEFINITION. The state of the LED frame block as plain data, and the state after reset (spec/10_state.md; reset values
R26). INVENTORY.md lists every field with its rule. -/

namespace Sys2Proof.Machine

/-- Why the machine stops with a fault. -/
inductive Fault where
  /-- `OutOfRange(layer, x)` (00_scope R8 (4), R11; 90 C3; 92 D24). Raised by a SETPIX, GETPIX, SETROW or SETCOL whose layer is
  not below 16 or whose x is not below 32; the index an operation does not have is none (DESIGN CHOICE, log 12). No decoded word
  gives such an operand (30_encoding R42), so no step of the machine raises it. Safe: the spec prescribes this fault. -/
  | outOfRange (layer x : Option Nat)
  deriving DecidableEq, Repr

/-- Why the model gives no meaning. -/
inductive Refusal where
  /-- Raised by an arm of `exec` whose instruction has no meaning in the model; no arm does. Safe: the model stops. -/
  | notModelled (mnemonic : String)
  deriving DecidableEq, Repr

/-- The serializer state SER (10_state R18). -/
inductive Ser where
  /-- No flush runs. -/
  | idle
  /-- `XMIT(k)`: byte k of the frame is on the bus and waits for its transmit-complete. -/
  | xmit (k : Fin 64)
  /-- The latch strobe is high. -/
  | strobe
  deriving DecidableEq, Repr

/-- The contents of STATUS.ERR (60_exceptions R90). Codes 5 to 7 are never produced, so they are no constructors. -/
inductive ErrorCode where
  /-- Code 0, NONE. -/
  | noError
  /-- Code 1: a CMD write whose word decodes to `Illegal(w)`. -/
  | illegalCommand
  /-- Code 2: a DATA write while LDP = 0. -/
  | strayData
  /-- Code 3: a CMD write while LDP = 1. -/
  | loadAbandoned
  /-- Code 4: the Bus gives `txTimeout`. -/
  | txTimeout
  deriving DecidableEq, Repr

/-- The four host registers (10_state R23). -/
inductive Reg where
  | cmd
  | data
  | status
  | bright
  deriving DecidableEq, Repr

/-- One access of the host bus: a 2-bit register address, and 16 data bits for a write (10_state R25, 20_memory R30). -/
inductive Access where
  | read (addr : BitVec 2)
  | write (addr : BitVec 2) (wdata : Word)
  deriving DecidableEq, Repr

/-- A write that holds while SER ≠ IDLE (42_host_access R80, R82). -/
inductive PortWrite where
  | cmd (w : Word)
  | data (w : Word)
  deriving DecidableEq, Repr

/-- One move of an agent or of the outside world (00_scope R7; 10_state R25). An input that the state does not enable changes
nothing (log 2). -/
inductive Input where
  /-- The host issues a register access. -/
  | host (a : Access)
  /-- The host's held write tries again. -/
  | heldWrite
  /-- The Bus: transmit-complete of the byte in flight (41 R69). -/
  | txDone
  /-- The Bus: timeout of the byte in flight (41 R77). -/
  | txTimeout
  /-- The Strobe: the end of the latch pulse (41 R72). -/
  | strobeEnd
  /-- The Reset input (70 R103, R104). -/
  | reset
  /-- Power goes off and on again (70 R105, R106). -/
  | powerUp
  deriving DecidableEq, Repr

/-- The frame-buffer space (20_memory R27 (2)): cells (address, byte) with address a = 4·l + b, in the canonical form
`Memory.wf` of Ops.lean. -/
abbrev Memory := List Host.Cell

/-- A frame's worth of bytes: the staging buffer, the chain, the driver outputs. -/
abbrev Bytes64 := Vector Byte 64

/-- The 64 bytes of the n-th draw (93 §2 "any 64 bytes"; log 4, 19). -/
def drawnBytes (n : Nat) : Bytes64 :=
  Vector.ofFn fun j => (Config.freeBits n).extractLsb' (8 * j.val) 8

/-- The state of the block, of the driver chain behind it and of its ports. -/
structure State where
  /-- FB, the frame buffer (10_state R13). -/
  fb : Memory
  /-- BRIGHT (R16). -/
  bright : Byte
  /-- LDP, a LOAD waits for payload (R17). -/
  ldp : Bool
  /-- LDCNT, the payload bytes received (R17). -/
  ldcnt : Fin 64
  /-- SER, the serializer (R18); STB and STATUS.BUSY are computed from it. -/
  ser : Ser
  /-- STATUS.PIX (R24). -/
  pix : Bool
  /-- STATUS.ERR (R23, 60 R90). -/
  err : ErrorCode
  /-- The host's CMD or DATA write that holds, none where none does (00_scope R8 (2), 30_encoding R46; log 3). -/
  held : Option PortWrite
  /-- MODEL: what the agents and the outside world do next (log 1). -/
  inputs : List Input
  /-- MODEL: the parameter TX_TIMEOUT (00_scope R6; log 7). No step changes it. -/
  txTimeout : Option Nat
  /-- MODEL: the answers given to host reads so far, oldest first; nothing reads it (log 9). -/
  rdata : List Word
  /-- TX, the bytes emitted so far; an observation that nothing reads (41 R69; log 9). -/
  tx : List Byte
  /-- MODEL: how many draws have been made (log 4). -/
  draws : Nat
  /-- STG, the load staging buffer (R17). -/
  stg : Bytes64
  /-- CH, the chain's shift registers; stage 0 is nearest the block (R20). -/
  ch : Bytes64
  /-- OUT, the driver outputs (R20). -/
  out : Bytes64
  deriving DecidableEq, Repr

/-- The machine right after power-up: the values of 10_state R26. STG, CH and OUT, for which R26 says "unspecified" and "draws
(any value)", hold the free values of draws 0, 1 and 2 (DESIGN CHOICE, log 5). The traces and the input list
are empty (DESIGN CHOICE, log 9 and 16), no write is held, and TX_TIMEOUT is the default none (00_scope R6, log 7). -/
def State.reset : State where
  fb := []
  bright := 0xFF
  ldp := false
  ldcnt := 0
  ser := .idle
  pix := false
  err := .noError
  held := none
  inputs := []
  txTimeout := none
  rdata := []
  tx := []
  draws := 3
  stg := drawnBytes 0
  ch := drawnBytes 1
  out := drawnBytes 2

end Sys2Proof.Machine
end

