-- ==== Sys2Proof/Machine/Ops.lean ====
section
/-! DEFINITION. The shared operations: the frame-buffer memory, the error record (60_exceptions R91, the block's whole
exception mechanism, and the STATUS write that is "the only return", R97), the LOAD protocol (40_framebuffer R62 to R64, 42
R81), the flush engine (41_display_transmit R68 to R77), the host port's held write, and reset (70 R103 to R106). -/

namespace Sys2Proof.Machine

/-! ### The frame-buffer memory -/

/-- What an unlisted address reads as: the reset contents of FB, "all 64 bytes 0x00" (10_state R26). -/
def unlistedByte : Byte := 0x00

/-- `MemRead(a, 1)` (00_scope R10). -/
def Memory.read (m : Memory) (a : Nat) : Byte := (m.lookup a).getD unlistedByte

/-- The canonical form of memory: addresses strictly rising, all below 64 (10_state R15: "no other cell exists"), no byte that
an unlisted address reads as. -/
abbrev Memory.wf (m : Memory) : Prop :=
  m.Pairwise (fun c d => c.1 < d.1) ∧ ∀ c ∈ m, c.1 < 64 ∧ c.2 ≠ unlistedByte

/-- The memory whose byte at each address of the frame buffer is the value of `f` there. -/
def Memory.ofFn (f : Nat → Byte) : Memory :=
  (List.range 64).filterMap fun a => if f a = unlistedByte then none else some (a, f a)

/-- `MemWrite(a, 1, v)` (00_scope R10). -/
def Memory.write (m : Memory) (a : Nat) (v : Byte) : Memory :=
  Memory.ofFn fun i => if i = a then v else m.read i

/-- Frame-buffer byte a = 4·l + b, which is `FB[l][b]` (20_memory R28). -/
def fbByte (s : State) (a : Nat) : Byte := s.fb.read a

/-- Write one frame-buffer byte. -/
def storeByte (a : Nat) (v : Byte) (s : State) : State := { s with fb := s.fb.write a v }

/-- Write the whole frame buffer: byte a becomes `f a`, all 64 in one step. -/
def setFrame (f : Nat → Byte) (s : State) : State := { s with fb := Memory.ofFn f }

/-- `rowval(l) = {FB[l][3], FB[l][2], FB[l][1], FB[l][0]}` (20_memory R28). -/
def rowval (s : State) (l : Nat) : RowValue :=
  fbByte s (4 * l + 3) ++ fbByte s (4 * l + 2) ++ fbByte s (4 * l + 1) ++ fbByte s (4 * l)

/-! ### The error record -/

/-- `raise E`: the first error is kept (60_exceptions R91). -/
def raiseError (e : ErrorCode) (s : State) : State :=
  { s with err := if s.err = .noError then e else s.err }

/-- The effect of a STATUS write, `STATUS.ERR <- 0` (42_host_access R84, 60 R97). -/
def clearError (s : State) : State := { s with err := .noError }

/-! ### STATUS.PIX and BRIGHT -/

/-- `STATUS.PIX <- b` (40_framebuffer R54). -/
def recordPixel (b : Bool) (s : State) : State := { s with pix := b }

/-- `BRIGHT <- v` (42_host_access R86). -/
def setBright (v : Byte) (s : State) : State := { s with bright := v }

/-! ### The LOAD protocol -/

/-- The LOAD command: a payload phase opens (40_framebuffer R62). -/
def loadStart (s : State) : State := { s with ldp := true, ldcnt := 0 }

/-- `load_abandon()`: the staged bytes are dropped, LoadAbandoned is raised (42_host_access R81). STG, whose content outside a
pending LOAD is "any value" (93 §2), keeps its bytes (DESIGN CHOICE, log 6). -/
def loadAbandon (s : State) : State := raiseError .loadAbandoned { s with ldp := false, ldcnt := 0 }

/-- `STG[LDCNT] <- v` (40_framebuffer R63). -/
def stageByte (v : Byte) (s : State) : State := { s with stg := s.stg.set s.ldcnt.val v s.ldcnt.isLt }

/-- `load_commit()`: all 64 staged bytes reach FB in one step (40_framebuffer R64). STG, whose content outside a pending LOAD is
"any value" (93 §2), keeps its bytes (DESIGN CHOICE, log 6). -/
def loadCommit (s : State) : State :=
  { s with
    fb := Memory.ofFn fun a => if h : a < 64 then s.stg[a] else unlistedByte,
    ldp := false, ldcnt := 0 }

/-- `payload(v)`: store the byte, count it, and commit after the 64th (40_framebuffer R63, R64). -/
def payload (v : Byte) (s : State) : State :=
  if h : s.ldcnt.val + 1 < 64 then { stageByte v s with ldcnt := ⟨s.ldcnt.val + 1, h⟩ }
  else loadCommit (stageByte v s)

/-! ### The flush engine and the driver chain -/

/-- `flush_start()`: byte 0 goes onto the bus (41_display_transmit R68). Its precondition SER = IDLE is met in every step,
because a CMD write holds until then (42_host_access R80); outside it see log 20. -/
def flushStart (s : State) : State := { s with ser := .xmit 0 }

/-- `shift_in(v)`: the chain moves one stage toward its far end (41_display_transmit R70). -/
def shiftIn (v : Byte) (s : State) : State :=
  { s with ch := Vector.ofFn fun j => if j.val = 0 then v else s.ch[j.val - 1] }

/-- `TX <- TX ++ [v]`, the trace of emitted bytes (41_display_transmit R69). -/
def emit (v : Byte) (s : State) : State := { s with tx := s.tx ++ [v] }

/-- After the transmit-complete of byte k: the next byte, or `strobe_rise()` after byte 63 (41_display_transmit R69, R71). -/
def advanceSer (k : Fin 64) (s : State) : State :=
  { s with ser := if h : k.val + 1 < 64 then .xmit ⟨k.val + 1, h⟩ else .strobe }

/-- The transmit-complete of byte k (41_display_transmit R69). -/
def sendByte (k : Fin 64) (s : State) : State :=
  advanceSer k (emit (fbByte s k.val) (shiftIn (fbByte s k.val) s))

/-- The end of the latch pulse: OUT takes CH, SER becomes IDLE (41_display_transmit R72). -/
def latch (s : State) : State := { s with out := s.ch, ser := .idle }

/-- The Bus gives up on the byte in flight: no latch pulse, CH is a draw, TxTimeout is raised (41_display_transmit R77, 60 R95;
the free value of CH is log 4). -/
def abortFlush (s : State) : State :=
  raiseError .txTimeout { s with ser := .idle, ch := drawnBytes s.draws, draws := s.draws + 1 }

/-! ### The host port -/

/-- A CMD or DATA write holds: `ready` is low and nothing of the write has happened (10_state R25, 42 R80, R82; log 3). -/
def park (p : PortWrite) (s : State) : State := { s with held := some p }

/-- The block answers a host read with `w` on `rdata` (10_state R25; log 9). -/
def answer (w : Word) (s : State) : State := { s with rdata := s.rdata ++ [w] }

/-! ### Reset and power-up -/

/-- Each bit of the result is the bit of `new` where the draw has a 1 and the bit of `old` where it has a 0: "either its old
value or the matching bit of CH, independently" (70 R104). -/
def mixBytes (draw old new : Bytes64) : Bytes64 :=
  Vector.ofFn fun j => (new[j.val] &&& draw[j.val]) ||| (old[j.val] &&& ~~~draw[j.val])

/-- The block's own elements at their reset values; a held access is dropped (70 R103, 10_state R26). STG is unspecified and
becomes a draw (log 6). CH, OUT and the model's own fields keep their values. -/
def resetBlock (s : State) : State :=
  { s with
    fb := [], bright := 0xFF, stg := drawnBytes s.draws, ldp := false, ldcnt := 0, ser := .idle, pix := false,
    err := .noError, held := none, draws := s.draws + 1 }

/-- CH after a reset: a draw where a byte was in flight, else unchanged (70 R104, R105). -/
def chainAfterReset (s : State) : Bytes64 :=
  match s.ser with
  | .xmit _ => drawnBytes (s.draws + 1)
  | .idle => s.ch
  | .strobe => s.ch

/-- OUT after a reset: each bit old or the bit of CH where the strobe was high, else unchanged (70 R104, R105). -/
def outAfterReset (s : State) : Bytes64 :=
  match s.ser with
  | .strobe => mixBytes (drawnBytes (s.draws + 1)) s.out s.ch
  | .idle => s.out
  | .xmit _ => s.out

/-- The Reset input (70 R103 to R105). -/
def resetInput (s : State) : State :=
  { resetBlock s with ch := chainAfterReset s, out := outAfterReset s, draws := s.draws + 2 }

/-- Power-up: "a reset (rule R103) with CH and OUT drawn anew" (70 R106; log 17). -/
def powerUp (s : State) : State :=
  { resetBlock s with ch := drawnBytes (s.draws + 1), out := drawnBytes (s.draws + 2), draws := s.draws + 3 }

end Sys2Proof.Machine
end

