-- ==== Sys2Proof/Machine/Operands.lean ====
section
/-! DEFINITION. Operand forms: the pixel map of spec/10_state.md R13, the range checks of 00_scope R11, the register address of
10_state R23 and the meaningful bits of a data write. -/

namespace Sys2Proof.Machine

/-- The linear address of the byte that holds pixel `(l, x)`: byte x / 8 of row l (10_state R13, 20_memory R28). -/
def pixelAddr (l x : Nat) : Nat := 4 * l + x / 8

/-- The bit of its byte that is pixel x: x % 8 (10_state R13). -/
def pixelBit (x : Nat) : Nat := x % 8

/-- `m = 1 << i` (40_framebuffer R52, R57). -/
def pixelMask (x : Nat) : Byte := 1#8 <<< pixelBit x

/-- `v | m` where ON = 1, `v & ~m` where ON = 0 (40_framebuffer R52, R57). -/
def putPixel (x : Nat) (on : Bool) (v : Byte) : Byte :=
  if on then v ||| pixelMask x else v &&& ~~~pixelMask x

/-- `pix(l, x)` (00_scope R10). -/
def pix (s : State) (l x : Nat) : Bool := (fbByte s (pixelAddr l x)).getLsbD (pixelBit x)

/-- `(ON == 1) ? 0xFF : 0x00` (40_framebuffer R56). -/
def rowFill (on : Bool) : Byte := if on then 0xFF else 0x00

/-- Run `k` where layer and x are in range, else the fault `OutOfRange(layer, x)` with no state (00_scope R11). -/
def withPixel (l x : Nat) (k : Host.Outcome State Fault Refusal) : Host.Outcome State Fault Refusal :=
  if l < 16 ∧ x < 32 then k else .fault (.outOfRange (some l) (some x))

/-- The range check of an operation that has a layer and no x (00_scope R11; log 12). -/
def withLayer (l : Nat) (k : Host.Outcome State Fault Refusal) : Host.Outcome State Fault Refusal :=
  if l < 16 then k else .fault (.outOfRange (some l) none)

/-- The range check of an operation that has an x and no layer (00_scope R11; log 12). -/
def withColumn (x : Nat) (k : Host.Outcome State Fault Refusal) : Host.Outcome State Fault Refusal :=
  if x < 32 then k else .fault (.outOfRange none (some x))

/-- The register at a 2-bit address (10_state R23); all four addresses are assigned (20_memory R34). -/
def Reg.ofAddr (a : BitVec 2) : Reg :=
  match a.toNat with
  | 0 => .cmd
  | 1 => .data
  | 2 => .status
  | _ => .bright

/-- The address of a register (10_state R23). -/
def Reg.addr : Reg → BitVec 2
  | .cmd => 0
  | .data => 1
  | .status => 2
  | .bright => 3

/-- `wdata[7:0]`, the bits of a DATA or BRIGHT write that count (10_state R23). -/
def lowByte (w : Word) : Byte := w.extractLsb' 0 8

end Sys2Proof.Machine
end

