-- ==== Sys2Proof/Machine/Flags.lean ====
section
/-! DEFINITION. The STATUS fields and the read values of the host registers (spec/10_state.md R23, 42_host_access.md R83, R85,
R88). No command computes a carry, zero or sign flag (40_framebuffer R66): the fields are PIX, written by GETPIX, and the
views of SER, LDP, LDCNT and ERR below. -/

namespace Sys2Proof.Machine

/-- The code of an error (60_exceptions R90). -/
def ErrorCode.code : ErrorCode → BitVec 3
  | .noError => 0
  | .illegalCommand => 1
  | .strayData => 2
  | .loadAbandoned => 3
  | .txTimeout => 4

/-- STATUS.BUSY: 1 exactly when SER ≠ IDLE (10_state R18). -/
def busy (s : State) : Bool := decide (s.ser ≠ .idle)

/-- The latch strobe STB: 1 exactly when SER = STROBE (10_state R19). -/
def strobeOut (s : State) : Bool := decide (s.ser = .strobe)

/-- The STATUS read value `{0000, LDCNT[5:0], ERR[2:0], LDP, PIX, BUSY}` (10_state R23, 42 R83). -/
def statusWord (s : State) : Word :=
  0#4 ++ BitVec.ofNat 6 s.ldcnt.val ++ s.err.code ++ BitVec.ofBool s.ldp ++ BitVec.ofBool s.pix ++ BitVec.ofBool (busy s)

/-- What a read of each register returns (42_host_access R83, R85, R88). -/
def readReg (s : State) : Reg → Word
  | .cmd => 0x0000
  | .data => 0x0000
  | .status => statusWord s
  | .bright => s.bright.setWidth 16

end Sys2Proof.Machine
end

