-- ==== Sys2Proof/Machine/Display.lean ====
section
/-! DEFINITION. FLUSH and the steps of the Bus and the Strobe (spec/41_display_transmit.md). -/

namespace Sys2Proof.Machine

/-- FLUSH (41_display_transmit R67, R68). -/
def execFlush (s : State) : Host.Outcome State Fault Refusal :=
  .next (flushStart s)

/-- The Bus step `txDone`, guard SER = XMIT(k) (41_display_transmit R69); where the guard fails nothing happens (log 2). -/
def busTxDone (s : State) : State :=
  match s.ser with
  | .xmit k => sendByte k s
  | .idle => s
  | .strobe => s

/-- The Bus step `txTimeout`, possible only where TX_TIMEOUT = some t and SER = XMIT(k) (41_display_transmit R77, 60 R95);
elsewhere it never occurs, and the model passes it over (log 2). -/
def busTxTimeout (s : State) : State :=
  match s.txTimeout, s.ser with
  | some _, .xmit _ => abortFlush s
  | some _, .idle => s
  | some _, .strobe => s
  | none, _ => s

/-- The Strobe step `strobeEnd`, guard SER = STROBE (41_display_transmit R72); where the guard fails nothing happens (log 2). -/
def strobeStep (s : State) : State :=
  match s.ser with
  | .strobe => latch s
  | .idle => s
  | .xmit _ => s

end Sys2Proof.Machine
end

