-- ==== Sys2Proof/Machine/FrameBuffer.lean ====
section
/-! DEFINITION. The frame-buffer commands of spec/40_framebuffer.md, one meaning each. A command's whole effect is one step
(R50, 30_encoding R46). -/

namespace Sys2Proof.Machine

/-- CLR (40_framebuffer R51). -/
def execClr (s : State) : Host.Outcome State Fault Refusal :=
  .next (setFrame (fun _ => 0x00) s)

/-- The pixel write of SETPIX, before any flush (40_framebuffer R52). -/
def setPixel (l x : Nat) (on : Bool) (s : State) : State :=
  storeByte (pixelAddr l x) (putPixel x on (fbByte s (pixelAddr l x))) s

/-- SETPIX: the bit is written first, and with F = 1 `flush_start` runs after it in the same step (40_framebuffer R52, R53). -/
def execSetpix (l x : Nat) (on f : Bool) (s : State) : Host.Outcome State Fault Refusal :=
  withPixel l x (.next (if f then flushStart (setPixel l x on s) else setPixel l x on s))

/-- GETPIX: the pixel goes to STATUS.PIX, and FB is not written (40_framebuffer R54, R55; 90 C2). -/
def execGetpix (l x : Nat) (s : State) : Host.Outcome State Fault Refusal :=
  withPixel l x (.next (recordPixel (pix s l x) s))

/-- SETROW (40_framebuffer R56). -/
def execSetrow (l : Nat) (on : Bool) (s : State) : Host.Outcome State Fault Refusal :=
  withLayer l (.next (setFrame (fun a => if a / 4 = l then rowFill on else fbByte s a) s))

/-- SETCOL (40_framebuffer R57). -/
def execSetcol (x : Nat) (on : Bool) (s : State) : Host.Outcome State Fault Refusal :=
  withColumn x (.next (setFrame (fun a => if a % 4 = x / 8 then putPixel x on (fbByte s a) else fbByte s a) s))

/-- INV (40_framebuffer R58). -/
def execInv (s : State) : Host.Outcome State Fault Refusal :=
  .next (setFrame (fun a => ~~~(fbByte s a)) s)

/-- `r2 = (r >> 1) | (r[0] << 31)`, which is `ror32(r, 1)` (40_framebuffer R59). -/
def ror1 (r : RowValue) : RowValue := (r >>> 1) ||| ((r &&& 1#32) <<< 31)

/-- SHR: each row's value rotates right by one (40_framebuffer R59; 90 C4). -/
def execShr (s : State) : Host.Outcome State Fault Refusal :=
  .next (setFrame (fun a => (ror1 (rowval s (a / 4))).extractLsb' (8 * (a % 4)) 8) s)

/-- SHD: row l takes the old row (l - 1) mod 16 (40_framebuffer R61). -/
def execShd (s : State) : Host.Outcome State Fault Refusal :=
  .next (setFrame (fun a => fbByte s (4 * ((a / 4 + 15) % 16) + a % 4)) s)

/-- LOAD: the payload phase opens; FB is unchanged (40_framebuffer R62). -/
def execLoad (s : State) : Host.Outcome State Fault Refusal :=
  .next (loadStart s)

/-- The abstract operation `loadBitmap(data)` of 00_scope R11: the whole grid takes the pattern, row-major (40_framebuffer
R64, R65). On the encoded interface it is LOAD and 64 payload bytes. It acts at once, and keeps LDP, LDCNT and
STG, whatever SER and LDP are (DESIGN CHOICE, log 20). -/
def loadBitmap (d : Bytes64) (s : State) : State :=
  setFrame (fun a => if h : a < 64 then d[a] else unlistedByte) s

end Sys2Proof.Machine
end

