-- ==== Sys2Proof/Machine/Dispatch.lean ====
section
/-! DEFINITION. One arm a command (spec/30_encoding.md R43, R46 (3)). -/

namespace Sys2Proof.Machine

/-- The decoded command executes completely, by its rule (30_encoding R46). As the abstract operation of 00_scope R11 it acts at
once whatever SER and LDP are, with no hold and no abandonment, which belong to the register port (DESIGN CHOICE, log 20). -/
def exec (i : Instr) (s : State) : Host.Outcome State Fault Refusal :=
  match i with
  | .clr => Sys2Proof.Machine.execClr s
  | .setpix l x on f => Sys2Proof.Machine.execSetpix l x on f s
  | .getpix l x => Sys2Proof.Machine.execGetpix l x s
  | .setrow l on => Sys2Proof.Machine.execSetrow l on s
  | .setcol x on => Sys2Proof.Machine.execSetcol x on s
  | .inv => Sys2Proof.Machine.execInv s
  | .shr => Sys2Proof.Machine.execShr s
  | .shd => Sys2Proof.Machine.execShd s
  | .load => Sys2Proof.Machine.execLoad s
  | .flush => Sys2Proof.Machine.execFlush s

end Sys2Proof.Machine
end

