-- ==== Sys2Proof/Machine/HostAccess.lean ====
section
/-! DEFINITION. The Host agent's steps (spec/42_host_access.md), and the move of whichever agent or outside event comes next
(00_scope R7). -/

namespace Sys2Proof.Machine

/-- A CMD write that does not hold: a pending LOAD is abandoned, the word is decoded, and the command executes or
IllegalCommand is raised (42_host_access R80, R81; 30_encoding R45, R46). -/
def cmdWrite (w : Word) (s : State) : Host.Outcome State Fault Refusal :=
  let s' := if s.ldp then loadAbandon s else s
  match decode w with
  | .legal i => exec i s'
  | .illegal _ => .next (raiseError .illegalCommand s')

/-- A DATA write that does not hold: a payload byte of the pending LOAD, or StrayData (42_host_access R82). -/
def dataWrite (w : Word) (s : State) : State :=
  if s.ldp then payload (lowByte w) s else raiseError .strayData s

/-- A CMD or DATA write that does not hold. -/
def takeWrite (p : PortWrite) (s : State) : Host.Outcome State Fault Refusal :=
  match p with
  | .cmd w => cmdWrite w s
  | .data w => .next (dataWrite w s)

/-- A CMD or DATA write issued by the host: it holds while SER ≠ IDLE (42_host_access R80, R82). -/
def issueWrite (p : PortWrite) (s : State) : Host.Outcome State Fault Refusal :=
  if s.ser = .idle then takeWrite p s else .next (park p s)

/-- The held write tries again: it proceeds where SER = IDLE (41_display_transmit R72, 42_host_access R80). -/
def retryHeld (s : State) : Host.Outcome State Fault Refusal :=
  match s.held with
  | none => .next s
  | some p => if s.ser = .idle then takeWrite p { s with held := none } else .next s

/-- A host write: CMD and DATA may hold, STATUS and BRIGHT never do (42_host_access R80, R82, R84, R86). -/
def hostWrite (r : Reg) (w : Word) (s : State) : Host.Outcome State Fault Refusal :=
  match r with
  | .cmd => issueWrite (.cmd w) s
  | .data => issueWrite (.data w) s
  | .status => .next (clearError s)
  | .bright => .next (setBright (lowByte w) s)

/-- A host read has no side effect and never holds (42_host_access R83, R85, R88; 20_memory R33). -/
def hostRead (r : Reg) (s : State) : State := answer (readReg s r) s

/-- One register access that the host may make (20_memory R30, R32). -/
def performAccess (a : Access) (s : State) : Host.Outcome State Fault Refusal :=
  match a with
  | .read addr => .next (hostRead (Reg.ofAddr addr) s)
  | .write addr w => hostWrite (Reg.ofAddr addr) w s

/-- The accesses that never hold: every read, and the writes of STATUS and BRIGHT (42_host_access R83 to R86, R88). -/
def Access.neverHolds : Access → Bool
  | .read _ => true
  | .write addr _ =>
    match Reg.ofAddr addr with
    | .cmd => false
    | .data => false
    | .status => true
    | .bright => true

/-- Whether the host may make an access. With no write held it may make any. While one holds, it may make those that never hold,
as in the trace P4 of 95_test_vectors (steps 3 to 5), and no further CMD or DATA write, since "commands are never queued"
(30_encoding R46). Once SER = IDLE the held write goes first (20_memory R35, P4 steps 7 to 9; log 3). -/
def mayIssue (a : Access) (s : State) : Bool :=
  match s.held with
  | none => true
  | some _ => decide (s.ser ≠ .idle) && a.neverHolds

/-- The Host's step: the access, where the host may make it; elsewhere it is not enabled and nothing happens (00_scope R8 (2);
log 2). -/
def hostAccess (a : Access) (s : State) : Host.Outcome State Fault Refusal :=
  if mayIssue a s then performAccess a s else .next s

/-- One move (00_scope R7). -/
def takeInput (e : Input) (s : State) : Host.Outcome State Fault Refusal :=
  match e with
  | .host a => hostAccess a s
  | .heldWrite => retryHeld s
  | .txDone => .next (busTxDone s)
  | .txTimeout => .next (busTxTimeout s)
  | .strobeEnd => .next (strobeStep s)
  | .reset => .next (resetInput s)
  | .powerUp => .next (powerUp s)

/-- The input that hands the word of an opcode-table row to the command port (30_encoding R41). -/
def commandInput (nbits w : Nat) : Input := .host (.write Reg.cmd.addr (tableWord nbits w))

/-- The state in which the host's next access is taken at once: no flush runs and no write is held. -/
def withCommand (nbits w : Nat) (s : State) : State :=
  { s with ser := .idle, held := none, inputs := commandInput nbits w :: s.inputs }

end Sys2Proof.Machine
end

