-- ==== Sys2Proof/Machine/Step.lean ====
section
/-! DEFINITION. One step: the first entry of the input list moves (spec/00_scope.md R7, R8; log 1). -/

namespace Sys2Proof.Machine

/-- With an empty input list no agent moves and the state stays (log 1); otherwise the first input is taken. -/
def step (s : State) : Host.Outcome State Fault Refusal :=
  match s.inputs with
  | [] => .next s
  | e :: rest => takeInput e { s with inputs := rest }

/-- The state `s` with a CMD write of the word as the very next move, in a block that takes it at once (log 16). -/
def State.withFetchWord (s : State) (nbits w : Nat) : State := withCommand nbits w s

end Sys2Proof.Machine
end

