-- ==== Sys2Proof/Machine/Assembler.lean ====
section
/-! DEFINITION. The notation of host programs (spec/30_encoding.md R48) and the pseudo-instructions (R49): each line is a list of
inputs of the machine. An operand out of its range "is an assembly error" (R48), and the line then assembles to none. The words
are computed from the arithmetic of R48's table, apart from the encoder of Decode.lean. -/

namespace Sys2Proof.Machine

/-- One line of a host program. -/
inductive AsmLine where
  | clr
  | setpix (l x on : Nat) (f : Bool)
  | getpix (l x : Nat)
  | setrow (l on : Nat)
  | setcol (x on : Nat)
  | inv
  | shr
  | shd
  | load
  | flush
  /-- `.word V`: a CMD write of the raw word. -/
  | word (v : Nat)
  | data (v : Nat)
  | wr (r : Reg) (v : Nat)
  | rd (r : Reg)
  /-- The Bus gives `txDone` (a test-bench step). -/
  | waittx
  /-- The Strobe gives `strobeEnd` (a test-bench step), after which the host's held write, if there is one, completes, as in
  steps 7 and 8 of the trace P4 of 95_test_vectors (log 3). -/
  | waitstb
  | clrpix (l x : Nat)
  | setpixf (l x on : Nat)
  | loadbmp (d : Bytes64)
  | setbright (v : Nat)
  | clrerr
  /-- WAITIDLE with its number of STATUS reads: "repeated until bit 0 (BUSY) reads 0" (R49). -/
  | waitidle (polls : Nat)
  | flushall
  deriving DecidableEq, Repr

/-- A host write of a register. -/
def writeReg (r : Reg) (v : Nat) : Input := .host (.write r.addr (BitVec.ofNat 16 v))

/-- The one write of a line whose operands are in range. -/
def lineIf (ok : Bool) (r : Reg) (v : Nat) : Option (List Input) := if ok then some [writeReg r v] else none

/-- The word of SETPIX (R48). -/
def setpixWord (l x on f : Nat) : Nat := 0x2000 ||| l <<< 8 ||| x <<< 3 ||| on <<< 2 ||| f <<< 1

/-- L is 0..15, X is 0..31, ON is 0 or 1 (R48). -/
def pixelOperands (l x on : Nat) : Bool := decide (l < 16) && decide (x < 32) && decide (on < 2)

/-- The steps of a test bench in which the Bus answers every byte and the strobe ends (R49 FLUSHALL; 41_display_transmit R76
`BusLive`, R79). -/
def flushInputs : List Input := List.replicate 64 .txDone ++ [.strobeEnd]

/-- `DATA d0` to `DATA d63`, row-major (R49; 40_framebuffer R65). -/
def payloadInputs (d : Bytes64) : List Input :=
  d.toList.map fun v => .host (.write Reg.data.addr (v.setWidth 16))

/-- The accesses of `LOADBMP d0, ..., d63` (R49). -/
def loadBitmapInputs (d : Bytes64) : List Input := .host (.write Reg.cmd.addr 0x9000) :: payloadInputs d

/-- The inputs of a line, none for an assembly error (R48, R49). -/
def assemble : AsmLine → Option (List Input)
  | .clr => some [writeReg .cmd 0x1000]
  | .setpix l x on f => lineIf (pixelOperands l x on) .cmd (setpixWord l x on f.toNat)
  | .getpix l x => lineIf (pixelOperands l x 0) .cmd (0x3000 ||| l <<< 8 ||| x <<< 3)
  | .setrow l on => lineIf (pixelOperands l 0 on) .cmd (0x4000 ||| l <<< 8 ||| on <<< 2)
  | .setcol x on => lineIf (pixelOperands 0 x on) .cmd (0x5000 ||| x <<< 3 ||| on <<< 2)
  | .inv => some [writeReg .cmd 0x6000]
  | .shr => some [writeReg .cmd 0x7000]
  | .shd => some [writeReg .cmd 0x8000]
  | .load => some [writeReg .cmd 0x9000]
  | .flush => some [writeReg .cmd 0xA000]
  | .word v => lineIf (decide (v < 65536)) .cmd v
  | .data v => lineIf (decide (v < 256)) .data v
  | .wr r v => lineIf (decide (v < 65536)) r v
  | .rd r => some [.host (.read r.addr)]
  | .waittx => some [.txDone]
  | .waitstb => some [.strobeEnd, .heldWrite]
  | .clrpix l x => lineIf (pixelOperands l x 0) .cmd (setpixWord l x 0 0)
  | .setpixf l x on => lineIf (pixelOperands l x on) .cmd (setpixWord l x on 1)
  | .loadbmp d => some (loadBitmapInputs d)
  | .setbright v => lineIf (decide (v < 65536)) .bright v
  | .clrerr => some [writeReg .status 0]
  | .waitidle polls => some (List.replicate polls (.host (.read Reg.status.addr)))
  | .flushall => some (writeReg .cmd 0xA000 :: flushInputs ++ [.heldWrite])

/-- The inputs of a program, none where a line is an assembly error. -/
def assembleAll : List AsmLine → Option (List Input)
  | [] => some []
  | line :: lines =>
    match assemble line, assembleAll lines with
    | some is, some js => some (is ++ js)
    | some _, none => none
    | none, _ => none

end Sys2Proof.Machine
end

