-- ==== Sys2Proof/Machine/Observe.lean ====
section
/-! DEFINITION. What the outside observes: the latched frame, the driver outputs during a pulse, the brightness output, the
LEDs, the wire (spec/41_display_transmit.md R73 to R75, 42_host_access.md R87, 20_memory.md R29, R34). Nothing here changes
the state. -/

namespace Sys2Proof.Machine

/-- LatchedFrame, `LF[k] = OUT[63 - k]` (41_display_transmit R74). -/
def latchedFrame (s : State) : Bytes64 := Vector.ofFn fun k => s.out[63 - k.val]

/-- `ready`, low while a CMD or DATA write holds (10_state R25). When it rises again is the model's choice (DESIGN CHOICE,
log 3): it stays low until the held write has proceeded, so also with SER = IDLE, after the `strobeEnd` that lifts the
hold (42_host_access R80) and before the `heldWrite` input. -/
def ready (s : State) : Bool := s.held.isNone

/-- Whether the driver outputs may show `v`: while SER = STROBE each bit shows its old value or the matching bit of CH,
independently (41_display_transmit R73; log 13); otherwise they show OUT. -/
def outputsMayShow (s : State) (v : Bytes64) : Prop :=
  if s.ser = .strobe then
    ∀ j : Fin 64, ∀ i < 8, v[j.val].getLsbD i = s.out[j.val].getLsbD i ∨ v[j.val].getLsbD i = s.ch[j.val].getLsbD i
  else v = s.out

/-- A value brought into the range of a fraction. -/
def asFraction (q : Rat) : Rat := max 0 (min 1 q)

/-- DUTY, the fraction of the time that a lit LED shines, a free function but for its one limit: "only DUTY(0) = brightest is
known" (00_scope R6, 42_host_access R87; DEDUCED that brightest is the largest fraction, log 10). -/
def duty (b : Byte) : Rat := min (asFraction (Config.freeDuty b)) (asFraction (Config.freeDuty 0))

/-- The brightness output, at DUTY of the current BRIGHT (42_host_access R87). -/
def brightnessOut (s : State) : Rat := duty s.bright

/-- The physical LED of bit `i` of stage `j` (41_display_transmit R75). -/
def ledOf (j i : Nat) : Nat := Config.ledMap Config.bitOrder j i

/-- Whether the latched bit `i` of stage `j` lights its LED (41_display_transmit R75). It reads OUT, so while SER = STROBE it
follows the value before the pulse, where the spec admits the bit of CH too (R73; DESIGN CHOICE, unsafe, log 13). -/
def latchedBitLights (s : State) (j : Fin 64) (i : Nat) : Bool := s.out[j.val].getLsbD i == Config.litLevel

/-- The light of the LED of bit `i` of stage `j`: all LEDs are dimmed uniformly (41_display_transmit R75, 42 R87). While
SER = STROBE it follows the old OUT, as `latchedBitLights` does (DESIGN CHOICE, unsafe, log 13). -/
def ledLight (s : State) (j : Fin 64) (i : Nat) : Rat := if latchedBitLights s j i then brightnessOut s else 0

/-- The 8 bits of a byte in the order they go out on the wire (20_memory R29). -/
def wireBits (order : Config.BitOrder) (v : Byte) : List Bool :=
  match order with
  | .lsbFirst => (List.range 8).map v.getLsbD
  | .msbFirst => (List.range 8).map fun i => v.getLsbD (7 - i)

/-- Where the host platform puts a register (20_memory R34; log 14). -/
def hostAddress (r : Reg) : Nat := Config.base + r.addr.toNat

end Sys2Proof.Machine
end

