-- ==== Sys2Proof/Safety.lean ====
section
/-! DEFINITION. The invariants of the block and what its claims assume of the outside (spec/10_state.md, 41_display_transmit.md
R76, 42_host_access.md R82). -/

namespace Sys2Proof.Machine

/-- "When LDP = 0, LDCNT = 0" (10_state R17). -/
def loadCountIdle (s : State) : Prop := s.ldp = false → s.ldcnt = 0

/-- "LDP = 1 and SER ≠ IDLE never hold together" (42_host_access R82). -/
def loadOrFlush (s : State) : Prop := s.ldp = true → s.ser = .idle

/-- The bytes already sent stand in the chain: while XMIT(k), stage j holds frame byte k - 1 - j for every j < k; while STROBE,
stage j holds frame byte 63 - j (41_display_transmit R69, R70; 20_memory R36). -/
def chainTracksFrame (s : State) : Prop :=
  match s.ser with
  | .idle => True
  | .xmit k => ∀ j : Fin 64, j.val < k.val → s.ch[j.val] = fbByte s (k.val - 1 - j.val)
  | .strobe => ∀ j : Fin 64, s.ch[j.val] = fbByte s (63 - j.val)

/-- What every reachable state satisfies. -/
structure Inv (s : State) : Prop where
  memory : s.fb.wf
  load : loadCountIdle s
  exclusive : loadOrFlush s
  chain : chainTracksFrame s

/-- The inputs by which a flush that is sending can leave XMIT(k): an answer of the Bus, a reset or a power cycle
(41_display_transmit R69, R76, R77; 70 R103, R106). -/
def Input.freesBus : Input → Bool
  | .txDone => true
  | .txTimeout => true
  | .reset => true
  | .powerUp => true
  | .host _ => false
  | .heldWrite => false
  | .strobeEnd => false

/-- Nothing but the frame buffer differs: every register, counter, port, trace and chain byte keeps its value. -/
def onlyFrameDiffers (s t : State) : Prop := t = { s with fb := t.fb }

/-- The state in which a CMD write that does not hold decodes its word: a pending LOAD is already abandoned (42_host_access
R80, R81). -/
def atDecode (s : State) : State := if s.ldp then loadAbandon s else s

/-- A reserved OP or a nonzero reserved bit, by the formats Z, P, G, W and C of 30_encoding R41 (R45). -/
def reservedWord (w : Word) : Bool :=
  match (w.extractLsb' 12 4).toNat with
  | 1 | 6 | 7 | 8 | 9 | 10 => w.extractLsb' 0 12 != 0
  | 2 => w.getLsbD 0
  | 3 => w.extractLsb' 0 3 != 0
  | 4 => w.extractLsb' 3 5 != 0 || w.extractLsb' 0 2 != 0
  | 5 => w.extractLsb' 8 4 != 0 || w.extractLsb' 0 2 != 0
  | _ => true

/-- The CMD or DATA write that the next step takes, none where it takes none: one the host issues, or the held one, while
SER = IDLE (42_host_access R80, R82). -/
def writeTaken (s : State) : Option PortWrite :=
  match s.inputs with
  | .host (.write addr w) :: _ =>
    if s.ser = .idle ∧ s.held = none then
      match Reg.ofAddr addr with
      | .cmd => some (.cmd w)
      | .data => some (.data w)
      | .status => none
      | .bright => none
    else none
  | .heldWrite :: _ => if s.ser = .idle then s.held else none
  | _ => none

/-- The command that the next step executes, none where it executes none. -/
def commandTaken (s : State) : Option Instr :=
  match writeTaken s with
  | some (.cmd w) => (decode w).instr?
  | some (.data _) => none
  | none => none

/-- A LOAD of the pattern `d` is pending, and the payload bytes received so far are the first of `d`, each staged in its place
(40_framebuffer R63). -/
def loadingPattern (d : Bytes64) (s : State) : Prop :=
  s.ldp = true ∧ ∀ j : Fin 64, j.val < s.ldcnt.val → s.stg[j.val] = d[j.val]

/-- The next move is the Reset input or a power cycle (70 R103, R106). -/
def resets (s : State) : Prop := s.inputs.head? = some .reset ∨ s.inputs.head? = some .powerUp

/-- The commands that write FB in their own step (10_state R14). -/
def writesFrame : Instr → Bool
  | .clr => true
  | .setpix _ _ _ _ => true
  | .getpix _ _ => false
  | .setrow _ _ => true
  | .setcol _ _ => true
  | .inv => true
  | .shr => true
  | .shd => true
  | .load => false
  | .flush => false

/-- Commands one after another. -/
def execSeq : List Instr → State → Host.Outcome State Fault Refusal
  | [], s => .next s
  | i :: is, s =>
    match exec i s with
    | .next t => execSeq is t
    | .fault r => .fault r
    | .refused r => .refused r

/-- `n` steps of the machine, stopping at the first fault or refusal: `Host.Core.run` of `Sys2Proof.core`, over `State` itself. -/
def runSteps : Nat → State → Host.Outcome State Fault Refusal
  | 0, s => .next s
  | n + 1, s =>
    match step s with
    | .next t => runSteps n t
    | .fault r => .fault r
    | .refused r => .refused r

end Sys2Proof.Machine
end

