-- ==== Sys2Proof/Certificates/Slice0/Obligations.lean ====
section
/-! DEFINITION. The statements about the block. Each docstring names the rule of spec/ it formalises; `(log n)` names the row
of notes/assumptions where a clause rests on the model's own choice. A byte of the frame buffer is read by `fbByte`, a pixel by
`pix`; an equation of a whole state gives the frame of a command, since every field it does not name keeps its value. -/

open Sys2Proof Sys2Proof.Machine

/-! ### Encoding -/

/-- 30_encoding R41 to R44: decoding an encoded well-formed command gives it back, at every value of every operand. -/
def Obligations.DecodeOfEncodeIsTheCommand : Prop :=
  ∀ i : Instr, i.wellFormed = true → decode (encode i) = .legal i

/-- 30_encoding R42, R43: a decoded command is in range, and its encoding is the word it was decoded from, so every legal word
has one meaning and every bit of it is kept. -/
def Obligations.EncodeOfDecodeIsTheWord : Prop :=
  ∀ (w : Word) (i : Instr), decode w = .legal i → i.wellFormed = true ∧ encode i = w

/-- 30_encoding R44: at most one row matches a word; the word decodes to that row's command, and to Illegal where none
matches. -/
def Obligations.AtMostOneRowMatchesAWord : Prop :=
  ∀ w : Word,
    opcodeTable.countP (fun r => w &&& r.mask == r.pattern) ≤ 1 ∧
    (∀ r ∈ opcodeTable, w &&& r.mask = r.pattern → decode w = .legal (r.command w)) ∧
    ((∀ r ∈ opcodeTable, w &&& r.mask ≠ r.pattern) → decode w = .illegal w)

/-- 30_encoding R41, R45: the illegal words are those with a reserved OP or a nonzero reserved bit of the OP's format. -/
def Obligations.IllegalWordsAreTheReservedOnes : Prop :=
  ∀ w : Word, decode w = .illegal w ↔ reservedWord w = true

/-- 95_test_vectors V-E2 to V-E13: one word of each family, written out bit by bit from the formats of 30_encoding R41. -/
def Obligations.SampleWordsDecodeAsTheFormatsSay : Prop :=
  decode 0b0001_0000_0000_0000 = .legal .clr ∧
  decode 0b0010_0011_01010_1_1_0 = .legal (.setpix 3 10 true true) ∧
  decode 0b0011_1111_11111_000 = .legal (.getpix 15 31) ∧
  decode 0b0100_0101_00000_1_00 = .legal (.setrow 5 true) ∧
  decode 0b0101_0000_00111_1_00 = .legal (.setcol 7 true) ∧
  decode 0b0110_0000_0000_0000 = .legal .inv ∧
  decode 0b0111_0000_0000_0000 = .legal .shr ∧
  decode 0b1000_0000_0000_0000 = .legal .shd ∧
  decode 0b1001_0000_0000_0000 = .legal .load ∧
  decode 0b1010_0000_0000_0000 = .legal .flush ∧
  decode 0b0010_0000_0000_0001 = .illegal 0b0010_0000_0000_0001

/-- 30_encoding R48: the assembler table's arithmetic and the formats of R41 give the same words, and an operand out of range
assembles to nothing. -/
def Obligations.AssemblerLinesEncodeTheirCommands : Prop :=
  ∀ (l x on : Nat) (f : Bool),
    (l < 16 → x < 32 → on < 2 →
      assemble (.setpix l x on f) = some [.host (.write 0 (encode (.setpix l x (on == 1) f)))] ∧
      assemble (.getpix l x) = some [.host (.write 0 (encode (.getpix l x)))] ∧
      assemble (.setrow l on) = some [.host (.write 0 (encode (.setrow l (on == 1))))] ∧
      assemble (.setcol x on) = some [.host (.write 0 (encode (.setcol x (on == 1))))]) ∧
    (¬(l < 16 ∧ x < 32 ∧ on < 2) → assemble (.setpix l x on f) = none) ∧
    (¬(l < 16 ∧ x < 32) → assemble (.getpix l x) = none) ∧
    (¬(l < 16 ∧ on < 2) → assemble (.setrow l on) = none) ∧
    (¬(x < 32 ∧ on < 2) → assemble (.setcol x on) = none)

/-! ### The step -/

/-- 42_host_access R81, 60 R94, 30_encoding R46: a CMD write that does not hold is one step. A pending LOAD is abandoned and
LoadAbandoned raised, the staged bytes reaching nothing; then the word is decoded and its command executes, or an illegal word
raises IllegalCommand. That STG keeps the
dropped bytes is log 6. (While another write is held, this one is not enabled: `HostWaitsForItsHeldWrite`.) -/
def Obligations.StepRunsTheDecodedCommand : Prop :=
  ∀ (s u : State) (w : Word) (rest : List Input),
    s.inputs = .host (.write 0 w) :: rest → s.ser = .idle → s.held = none →
    u = { s with
          inputs := rest, ldp := false, ldcnt := if s.ldp then 0 else s.ldcnt,
          err := if s.ldp ∧ s.err = .noError then .loadAbandoned else s.err } →
    (∀ i, decode w = .legal i → step s = exec i u) ∧
    (decode w = .illegal w →
      step s = .next { u with err := if u.err = .noError then .illegalCommand else u.err })

/-- 30_encoding R45, 60 R92, R96: a word with a reserved OP or a nonzero reserved bit, written to CMD, changes nothing but LDP and
LDCNT, where it abandons a pending LOAD, and ERR: the first error stays, else LoadAbandoned where a LOAD was pending, else
IllegalCommand. FB, BRIGHT, STATUS.PIX, SER, CH and OUT keep their values, and no flush starts. That STG keeps
the bytes of an abandoned LOAD is log 6. -/
def Obligations.ReservedWordOnlyRaisesIllegalCommand : Prop :=
  ∀ (s : State) (w : Word) (rest : List Input),
    s.inputs = .host (.write 0 w) :: rest → s.ser = .idle → s.held = none → reservedWord w = true →
    step s = .next
      { s with
        inputs := rest, ldp := false, ldcnt := if s.ldp then 0 else s.ldcnt,
        err := if s.err ≠ .noError then s.err else if s.ldp then .loadAbandoned else .illegalCommand }

/-- 42_host_access R80, R82: while SER ≠ IDLE a CMD or DATA write holds and no part of it takes effect, however often it tries
again. That the write waits in the field `held` is the model's form (log 3). -/
def Obligations.CommandAndDataWritesHoldDuringAFlush : Prop :=
  ∀ (s : State) (w : Word) (rest : List Input), s.ser ≠ .idle →
    (s.held = none →
      (s.inputs = .host (.write 0 w) :: rest → step s = .next { s with inputs := rest, held := some (.cmd w) }) ∧
      (s.inputs = .host (.write 1 w) :: rest → step s = .next { s with inputs := rest, held := some (.data w) })) ∧
    (s.inputs = .heldWrite :: rest → step s = .next { s with inputs := rest })

/-- 00_scope R8 (2), 20_memory R35, 30_encoding R46 "commands are never queued": while a write is held, no further CMD or DATA
write is enabled, and once SER = IDLE no access at all, until the held write has proceeded. That an access which is not enabled
is passed over, and that the held write then goes first, are log 2 and 3. -/
def Obligations.HostWaitsForItsHeldWrite : Prop :=
  ∀ (s : State) (p : PortWrite) (a : Access) (rest : List Input), s.held = some p → s.inputs = .host a :: rest →
    (s.ser = .idle ∨ ∃ w, a = .write 0 w ∨ a = .write 1 w) → step s = .next { s with inputs := rest }

/-- 41_display_transmit R72, 42 R80 to R82: once SER = IDLE the held write proceeds with the whole effect it has when it does not
hold. A CMD write: a pending LOAD is abandoned, then the command executes or IllegalCommand is raised. A DATA write: StrayData,
or a payload byte, the 64th of which commits. (That its turn is an input is log 3, that STG keeps its bytes log 6.) -/
def Obligations.HeldWriteProceedsWhenIdle : Prop :=
  ∀ (s u : State) (w : Word) (rest : List Input), s.ser = .idle → s.inputs = .heldWrite :: rest →
    (s.held = some (.cmd w) →
      u = { s with
            inputs := rest, held := none, ldp := false, ldcnt := if s.ldp then 0 else s.ldcnt,
            err := if s.ldp ∧ s.err = .noError then .loadAbandoned else s.err } →
      (∀ i, decode w = .legal i → step s = exec i u) ∧
      (decode w = .illegal w →
        step s = .next { u with err := if u.err = .noError then .illegalCommand else u.err })) ∧
    (s.held = some (.data w) →
      (s.ldp = false →
        step s = .next
          { s with inputs := rest, held := none, err := if s.err = .noError then .strayData else s.err }) ∧
      (s.ldp = true →
        (∀ n : Fin 64, n.val = s.ldcnt.val + 1 →
          step s = .next
            { s with
              inputs := rest, held := none, stg := s.stg.set s.ldcnt.val (w.setWidth 8) s.ldcnt.isLt, ldcnt := n }) ∧
        (s.ldcnt.val = 63 →
          ∃ t, step s = .next t ∧
            (∀ a : Fin 64, fbByte t a.val = if a.val = 63 then w.setWidth 8 else s.stg[a.val]) ∧
            t = { s with
                  inputs := rest, held := none, fb := t.fb, stg := s.stg.set 63 (w.setWidth 8), ldp := false,
                  ldcnt := 0 })))

/-- 00_scope R8, 30_encoding R42: the encoded interface cannot cause OutOfRange, and nothing is refused: from every state, every
step answers a next state. -/
def Obligations.EveryStepAnswersANextState : Prop :=
  ∀ s : State, ∃ t, step s = .next t

/-! ### Frame-buffer commands -/

/-- 40_framebuffer R51: CLR makes all 64 bytes 0x00 and changes nothing else. -/
def Obligations.ClrZeroesEveryByte : Prop :=
  decode 0x1000 = .legal .clr ∧
  ∀ s : State, ∃ t, exec .clr s = .next t ∧ (∀ a < 64, fbByte t a = 0x00) ∧ onlyFrameDiffers s t

/-- 40_framebuffer R52, R53: SETPIX sets or clears bit X & 7 of byte FB[L][X >> 3] and no other bit of FB; with F = 1 SER becomes
XMIT(0) in the same step; nothing else changes. In states with SER ≠ IDLE, which R53 says cannot happen, the form with F = 1
is the model's own (DEDUCED, log 20). -/
def Obligations.SetpixWritesOnePixel : Prop :=
  ∀ (s : State) (l x : Nat) (on f : Bool), l < 16 → x < 32 →
    decode (BitVec.ofNat 16 (0x2000 + 256 * l + 8 * x + 4 * on.toNat + 2 * f.toNat)) = .legal (.setpix l x on f) ∧
    ∃ t, exec (.setpix l x on f) s = .next t ∧
      (∀ a < 64, a ≠ pixelAddr l x → fbByte t a = fbByte s a) ∧
      (∀ i < 8, (fbByte t (pixelAddr l x)).getLsbD i = if i = x % 8 then on else (fbByte s (pixelAddr l x)).getLsbD i) ∧
      t = { s with fb := t.fb, ser := if f then .xmit 0 else s.ser }

/-- 40_framebuffer R54, R55: GETPIX writes the addressed bit to STATUS.PIX and nothing else; FB is not written. -/
def Obligations.GetpixWritesOnlyPix : Prop :=
  ∀ (s : State) (l x : Nat), l < 16 → x < 32 →
    decode (BitVec.ofNat 16 (0x3000 + 256 * l + 8 * x)) = .legal (.getpix l x) ∧
    exec (.getpix l x) s = .next { s with pix := (fbByte s (4 * l + x / 8)).getLsbD (x % 8) }

/-- 40_framebuffer R56: SETROW fills the four bytes of row L with 0xFF or 0x00; the other rows and all else keep their values. -/
def Obligations.SetrowFillsOneRow : Prop :=
  ∀ (s : State) (l : Nat) (on : Bool), l < 16 →
    decode (BitVec.ofNat 16 (0x4000 + 256 * l + 4 * on.toNat)) = .legal (.setrow l on) ∧
    ∃ t, exec (.setrow l on) s = .next t ∧
      (∀ b < 4, fbByte t (4 * l + b) = if on then 0xFF else 0x00) ∧
      (∀ a < 64, a / 4 ≠ l → fbByte t a = fbByte s a) ∧
      onlyFrameDiffers s t

/-- 40_framebuffer R57: SETCOL sets or clears pixel X of each of the 16 rows; the other 496 pixels and all else keep their
values. -/
def Obligations.SetcolWritesOnePixelOfEveryRow : Prop :=
  ∀ (s : State) (x : Nat) (on : Bool), x < 32 →
    decode (BitVec.ofNat 16 (0x5000 + 8 * x + 4 * on.toNat)) = .legal (.setcol x on) ∧
    ∃ t, exec (.setcol x on) s = .next t ∧
      (∀ l < 16, ∀ y < 32, pix t l y = if y = x then on else pix s l y) ∧
      (∀ a < 64, a % 4 ≠ x / 8 → fbByte t a = fbByte s a) ∧
      onlyFrameDiffers s t

/-- 40_framebuffer R58: INV complements every byte and changes nothing else. -/
def Obligations.InvComplementsEveryByte : Prop :=
  decode 0x6000 = .legal .inv ∧
  ∀ s : State, ∃ t, exec .inv s = .next t ∧ (∀ a < 64, fbByte t a = 0xFF ^^^ fbByte s a) ∧ onlyFrameDiffers s t

/-- 40_framebuffer R59: SHR rotates each row's 32-bit value right by one, so pixel x takes the value of pixel (x + 1) mod 32;
nothing else changes. -/
def Obligations.ShrRotatesEachRowRight : Prop :=
  decode 0x7000 = .legal .shr ∧
  ∀ s : State, ∃ t, exec .shr s = .next t ∧
    (∀ l < 16, rowval t l = (rowval s l).rotateRight 1) ∧
    (∀ l < 16, ∀ x < 32, pix t l x = pix s l ((x + 1) % 32)) ∧
    onlyFrameDiffers s t

/-- 40_framebuffer R60: the byte-level form of SHR. Bit 0 of byte b + 1 goes to bit 7 of byte b, and bit 0 of byte 0 to bit 7 of
byte 3. -/
def Obligations.ShrCarriesIntoThePreviousByte : Prop :=
  ∀ s : State, ∃ t, exec .shr s = .next t ∧
    ∀ l < 16, ∀ b < 4,
      fbByte t (4 * l + b) = (fbByte s (4 * l + b) >>> 1) ||| ((fbByte s (4 * l + (b + 1) % 4) &&& 0x01) <<< 7)

/-- 40_framebuffer R61: SHD moves every row down one layer as a whole, row 15 to row 0; nothing else changes. -/
def Obligations.ShdMovesRowsDown : Prop :=
  decode 0x8000 = .legal .shd ∧
  ∀ s : State, ∃ t, exec .shd s = .next t ∧
    (∀ l, 1 ≤ l → l < 16 → ∀ b < 4, fbByte t (4 * l + b) = fbByte s (4 * (l - 1) + b)) ∧
    (∀ b < 4, fbByte t b = fbByte s (60 + b)) ∧
    onlyFrameDiffers s t

/-- 40_framebuffer R66 and the source's properties W3 to W5: INV twice, SHR 32 times and SHD 16 times give back the state they
began from. The premise is the canonical form of memory, which every step keeps (`EveryStepKeepsTheInvariant`). -/
def Obligations.InvShrShdReturnAfterTheirPeriods : Prop :=
  ∀ s : State, s.fb.wf →
    execSeq [.inv, .inv] s = .next s ∧
    execSeq (List.replicate 32 .shr) s = .next s ∧
    execSeq (List.replicate 16 .shd) s = .next s

/-- 40_framebuffer R66: SHR commutes with SHD, INV and CLR; SHD commutes with INV, CLR and SETCOL. -/
def Obligations.ShiftsCommute : Prop :=
  ∀ s : State,
    execSeq [.shr, .shd] s = execSeq [.shd, .shr] s ∧
    execSeq [.shr, .inv] s = execSeq [.inv, .shr] s ∧
    execSeq [.shr, .clr] s = execSeq [.clr, .shr] s ∧
    execSeq [.shd, .inv] s = execSeq [.inv, .shd] s ∧
    execSeq [.shd, .clr] s = execSeq [.clr, .shd] s ∧
    ∀ x on, execSeq [.shd, .setcol x on] s = execSeq [.setcol x on, .shd] s

/-- 40_framebuffer R66: SETROW and SETCOL are idempotent. -/
def Obligations.RowAndColumnWritesAreIdempotent : Prop :=
  ∀ (s : State) (l x : Nat) (on : Bool),
    execSeq [.setrow l on, .setrow l on] s = execSeq [.setrow l on] s ∧
    execSeq [.setcol x on, .setcol x on] s = execSeq [.setcol x on] s

/-- The source's properties W1 and W2 (95_test_vectors; 40_framebuffer R55, R66): GETPIX after CLR reads 0 at every pixel, and
SETPIX followed by GETPIX reads the value written, with every other pixel of the grid as it was. -/
def Obligations.GetpixReadsWhatWasWritten : Prop :=
  ∀ (s : State) (l x : Nat) (on : Bool), l < 16 → x < 32 →
    (∃ t, execSeq [.clr, .getpix l x] s = .next t ∧ t.pix = false) ∧
    ∃ t, execSeq [.setpix l x on false, .getpix l x] s = .next t ∧ t.pix = on ∧
      ∀ l' < 16, ∀ x' < 32, pix t l' x' = if l' = l ∧ x' = x then on else pix s l' x'

/-- 00_scope R11, 60 R90: a layer or an x outside its range faults OutOfRange with the indices the operation has, whatever the
state. That an index the operation does not have is none is the model's choice (log 12). -/
def Obligations.OutOfRangeOperandsFault : Prop :=
  ∀ (s : State) (l x : Nat) (on f : Bool),
    (¬(l < 16 ∧ x < 32) →
      exec (.setpix l x on f) s = .fault (.outOfRange (some l) (some x)) ∧
      exec (.getpix l x) s = .fault (.outOfRange (some l) (some x))) ∧
    (¬l < 16 → exec (.setrow l on) s = .fault (.outOfRange (some l) none)) ∧
    (¬x < 32 → exec (.setcol x on) s = .fault (.outOfRange none (some x)))

/-! ### LOAD -/

/-- 40_framebuffer R62: LOAD opens the payload phase, LDP = 1 and LDCNT = 0, and changes nothing else. In states with LDP = 1,
where R62 takes a pending LOAD as already abandoned, the answer is the model's own (DEDUCED, log 20). -/
def Obligations.LoadOpensThePayloadPhase : Prop :=
  decode 0x9000 = .legal .load ∧ ∀ s : State, exec .load s = .next { s with ldp := true, ldcnt := 0 }

/-- 40_framebuffer R63, R64: a DATA write with LDP = 1 stages wdata[7:0] at LDCNT and counts it; the 64th commits all 64 staged
bytes to FB in the same step and clears LDP and LDCNT. Nothing else changes. That STG keeps its bytes after the commit is
log 6. -/
def Obligations.PayloadBytesAreStagedAndTheLastCommits : Prop :=
  ∀ (s : State) (w : Word) (rest : List Input),
    s.inputs = .host (.write 1 w) :: rest → s.ser = .idle → s.held = none → s.ldp = true →
    (∀ n : Fin 64, n.val = s.ldcnt.val + 1 →
      step s = .next { s with inputs := rest, stg := s.stg.set s.ldcnt.val (w.setWidth 8) s.ldcnt.isLt, ldcnt := n }) ∧
    (s.ldcnt.val = 63 →
      ∃ t, step s = .next t ∧
        (∀ a : Fin 64, fbByte t a.val = if a.val = 63 then w.setWidth 8 else s.stg[a.val]) ∧
        t = { s with
              inputs := rest, fb := t.fb, stg := s.stg.set 63 (w.setWidth 8), ldp := false, ldcnt := 0 })

/-- 60_exceptions R93: a DATA write with LDP = 0 drops the byte and raises StrayData; nothing else changes. -/
def Obligations.StrayDataIsDropped : Prop :=
  ∀ (s : State) (w : Word) (rest : List Input),
    s.inputs = .host (.write 1 w) :: rest → s.ser = .idle → s.held = none → s.ldp = false →
    step s = .next { s with inputs := rest, err := if s.err = .noError then .strayData else s.err }

/-- 40_framebuffer R65: for every pattern d, the 65 accesses of LOADBMP leave FB[l][b] = d[4l + b], LDP = 0, LDCNT = 0 and every
other state element as it was (the hidden staging buffer apart, which no access observes); FB is then exactly what the abstract
operation loadBitmap makes it. -/
def Obligations.LoadBitmapWritesThePattern : Prop :=
  ∀ (s : State) (d : Bytes64) (rest : List Input),
    s.inputs = loadBitmapInputs d ++ rest → s.ser = .idle → s.held = none → s.ldp = false →
    ∃ t, runSteps 65 s = .next t ∧
      (∀ l : Fin 16, ∀ b : Fin 4, fbByte t (4 * l.val + b.val) = d[4 * l.val + b.val]) ∧
      t.fb = (loadBitmap d s).fb ∧
      t = { s with inputs := rest, fb := t.fb, stg := t.stg, ldp := false, ldcnt := 0 }

/-- 40_framebuffer R63 to R65: while a LOAD of the pattern d is pending, the bytes received so far stand in STG in their places.
Every step but a reset and a CMD write keeps that, where a DATA write it takes carries the next byte of d: FB keeps its value
and LDCNT counts the DATA write, or the 64th byte makes FB the pattern and ends the LOAD. Reads, STATUS and BRIGHT writes and
events may come between. -/
def Obligations.PendingLoadHoldsThePrefixOfItsPattern : Prop :=
  ∀ (d : Bytes64) (s t : State), loadingPattern d s → step s = .next t → ¬resets s →
    (∀ w, writeTaken s ≠ some (.cmd w)) → (∀ w, writeTaken s = some (.data w) → w.setWidth 8 = d[s.ldcnt.val]) →
    (loadingPattern d t ∧ t.fb = s.fb ∧ t.ldcnt.val = s.ldcnt.val + (if (writeTaken s).isSome then 1 else 0)) ∨
    (s.ldcnt.val = 63 ∧ (writeTaken s).isSome = true ∧ t.ldp = false ∧ t.ldcnt = 0 ∧
      ∀ a : Fin 64, fbByte t a.val = d[a.val])

/-! ### Flush -/

/-- 41_display_transmit R67, R68: FLUSH puts byte 0 on the bus, SER = XMIT(0), so STATUS.BUSY reads 1; STB stays 0 and nothing
else changes. In states with SER ≠ IDLE, outside the precondition of R68, the answer is the model's own (DEDUCED, log 20). -/
def Obligations.FlushStartsWithByteZero : Prop :=
  decode 0xA000 = .legal .flush ∧
  ∀ s : State, ∃ t, exec .flush s = .next t ∧ t = { s with ser := .xmit 0 } ∧
    (statusWord t).getLsbD 0 = true ∧ strobeOut t = false

/-- 41_display_transmit R69 to R71: `txDone` in XMIT(k) shifts frame byte k into the chain, appends it to TX, and goes on to byte
k + 1, or raises the strobe after byte 63. Nothing else changes. -/
def Obligations.TxDoneSendsOneByte : Prop :=
  ∀ (s : State) (k : Fin 64) (rest : List Input), s.inputs = .txDone :: rest → s.ser = .xmit k →
    ∃ t, step s = .next t ∧
      t.ch[0] = fbByte s k.val ∧
      (∀ j : Fin 63, t.ch[j.val + 1] = s.ch[j.val]) ∧
      (∀ n : Fin 64, n.val = k.val + 1 → t.ser = .xmit n) ∧
      (k.val = 63 → t.ser = .strobe ∧ strobeOut t = true) ∧
      t = { s with inputs := rest, ser := t.ser, ch := t.ch, tx := s.tx ++ [fbByte s k.val] }

/-- 41_display_transmit R72: `strobeEnd` in STROBE copies CH to OUT in one step and ends the pulse: SER = IDLE, STB = 0,
STATUS.BUSY = 0. Nothing else changes. -/
def Obligations.StrobeEndLatchesTheChain : Prop :=
  ∀ (s : State) (rest : List Input), s.inputs = .strobeEnd :: rest → s.ser = .strobe →
    ∃ t, step s = .next t ∧ t = { s with inputs := rest, out := s.ch, ser := .idle } ∧
      strobeOut t = false ∧ (statusWord t).getLsbD 0 = false

/-- 41_display_transmit R77, 60 R95: with TX_TIMEOUT = some t, `txTimeout` in XMIT(k) ends the flush without a latch pulse and
raises TxTimeout; OUT and FB keep their values, and CH may be anything (the statement does not constrain it). With TX_TIMEOUT =
none it never occurs; the model then passes such an input over (log 2, 7). -/
def Obligations.TxTimeoutAbortsTheFlush : Prop :=
  ∀ (s : State) (k : Fin 64) (rest : List Input), s.inputs = .txTimeout :: rest → s.ser = .xmit k →
    (s.txTimeout.isSome = true →
      ∃ t, step s = .next t ∧ strobeOut t = false ∧
        t = { s with
              inputs := rest, ser := .idle, ch := t.ch, draws := t.draws,
              err := if s.err = .noError then .txTimeout else s.err }) ∧
    (s.txTimeout = none → step s = .next { s with inputs := rest })

/-- Log 2, the model's choice: an event whose guard fails changes nothing (guards: 41_display_transmit R69, R72, R77). -/
def Obligations.UnguardedEventsChangeNothing : Prop :=
  ∀ (s : State) (rest : List Input),
    (s.inputs = .txDone :: rest → (∀ k, s.ser ≠ .xmit k) → step s = .next { s with inputs := rest }) ∧
    (s.inputs = .txTimeout :: rest → (∀ k, s.ser ≠ .xmit k) → step s = .next { s with inputs := rest }) ∧
    (s.inputs = .strobeEnd :: rest → s.ser ≠ .strobe → step s = .next { s with inputs := rest }) ∧
    (s.inputs = .heldWrite :: rest → s.held = none → step s = .next { s with inputs := rest }) ∧
    (s.inputs = [] → step s = .next s)

/-- 41_display_transmit R79, R74: a flush that runs to completion, started by FLUSH or by SETPIX with F = 1, with `u` the state
and FB of its start. With a Bus that answers every byte, no latch pulse and no change of OUT comes before the 64th byte, the
strobe is high after exactly it, and at the end TX has the 64 bytes of FB in row-major order, CH[j] = frame byte 63 - j,
OUT = CH, the LatchedFrame is FB, SER = IDLE, and everything else is as it was. Where the command starts in a state with
SER ≠ IDLE, outside the precondition of R68, its answer `u` is the model's own (DEDUCED, log 20). -/
def Obligations.CompleteFlushShowsTheFrame : Prop :=
  ∀ (i : Instr) (s u : State) (rest : List Input),
    (i = .flush ∨ ∃ l x on, i = .setpix l x on true) → exec i s = .next u → s.inputs = flushInputs ++ rest →
    (∀ n ≤ 64, ∃ v, runSteps n u = .next v ∧ v.out = s.out ∧ (strobeOut v = true ↔ n = 64)) ∧
    ∃ t, runSteps 65 u = .next t ∧
      t.tx = s.tx ++ (List.range 64).map (fbByte u) ∧
      (∀ j : Fin 64, t.ch[j.val] = fbByte u (63 - j.val)) ∧
      t.out = t.ch ∧
      (∀ k : Fin 64, (latchedFrame t)[k.val] = fbByte u k.val) ∧
      t = { u with inputs := rest, ser := .idle, tx := t.tx, ch := t.ch, out := t.out }

/-- 41_display_transmit R76: a Bus that never answers. While the inputs hold no answer of the Bus and no reset, SER stays
XMIT(k), BUSY stays 1, no latch pulse occurs, OUT, CH and FB keep their values, and a held write stays held. -/
def Obligations.SilentBusHangsTheFlush : Prop :=
  ∀ (n : Nat) (s : State) (k : Fin 64), s.ser = .xmit k → (∀ e ∈ s.inputs, e.freesBus = false) →
    ∃ t, runSteps n s = .next t ∧ t.ser = .xmit k ∧ (statusWord t).getLsbD 0 = true ∧
      strobeOut t = false ∧ t.out = s.out ∧ t.ch = s.ch ∧ t.fb = s.fb ∧ (s.held ≠ none → t.held = s.held)

/-- 41_display_transmit R73, R72: while SER = STROBE the outputs may show exactly the values in which each bit is the old one or
the bit of CH, independently: every mixture of the two, and nothing else. After `strobeEnd` they show exactly CH. That OUT
itself keeps the old value during the pulse, with `outputsMayShow` beside it, is the model's form (DEDUCED, log 13). -/
def Obligations.OutputsAreOldOrNewDuringThePulse : Prop :=
  ∀ (s t : State) (rest : List Input), s.ser = .strobe → s.inputs = .strobeEnd :: rest → step s = .next t →
    ∀ v : Bytes64,
      (outputsMayShow s v ↔
        ∀ j : Fin 64, ∀ i < 8, v[j.val].getLsbD i = s.out[j.val].getLsbD i ∨ v[j.val].getLsbD i = s.ch[j.val].getLsbD i) ∧
      (outputsMayShow s v ↔ ∃ m, v = mixBytes m s.out s.ch) ∧
      (outputsMayShow t v ↔ v = s.ch)

/-! ### Host registers

The accesses below never hold, so they take effect during a flush too, and while another write of the host holds, as in steps
3 to 5 of the trace P4 of 95_test_vectors. Their premise leaves out only the states in which a held write may proceed, which
then goes first (`HostWaitsForItsHeldWrite`, log 3). -/

/-- 42_host_access R83: a STATUS read answers {0000, LDCNT, ERR, LDP, PIX, BUSY}, never holds and has no side effect (the answer
stands in the trace `rdata`, log 9). -/
def Obligations.StatusReadAnswersTheFields : Prop :=
  ∀ (s : State) (rest : List Input), s.held = none ∨ s.ser ≠ .idle → s.inputs = .host (.read 2) :: rest →
    ∃ w : Word, step s = .next { s with inputs := rest, rdata := s.rdata ++ [w] } ∧
      w.toNat = 64 * s.ldcnt.val + 8 * s.err.code.toNat + 4 * s.ldp.toNat + 2 * s.pix.toNat +
        (if s.ser = .idle then 0 else 1)

/-- 42_host_access R84: a STATUS write of any word clears ERR and writes nothing else; it never holds. -/
def Obligations.StatusWriteClearsErr : Prop :=
  ∀ (s : State) (w : Word) (rest : List Input), s.held = none ∨ s.ser ≠ .idle → s.inputs = .host (.write 2 w) :: rest →
    step s = .next { s with inputs := rest, err := .noError }

/-- 42_host_access R85, R86: a BRIGHT read answers zext_16(BRIGHT); a BRIGHT write takes w[7:0]; neither holds, and neither
changes anything else. -/
def Obligations.BrightReadsAndWrites : Prop :=
  ∀ (s : State) (w : Word) (rest : List Input), s.held = none ∨ s.ser ≠ .idle →
    (s.inputs = .host (.read 3) :: rest →
      step s = .next { s with inputs := rest, rdata := s.rdata ++ [BitVec.ofNat 16 s.bright.toNat] }) ∧
    (s.inputs = .host (.write 3 w) :: rest →
      step s = .next { s with inputs := rest, bright := BitVec.ofNat 8 (w.toNat % 256) })

/-- 42_host_access R88: a read of CMD or DATA answers 0x0000 and has no side effect. -/
def Obligations.CommandAndDataReadZero : Prop :=
  ∀ (s : State) (a : BitVec 2) (rest : List Input), s.held = none ∨ s.ser ≠ .idle → a = 0 ∨ a = 1 → s.inputs = .host (.read a) :: rest →
    step s = .next { s with inputs := rest, rdata := s.rdata ++ [0x0000] }

/-! ### Whole-machine rules -/

/-- 10_state R14: FB changes only when CLR, SETPIX, SETROW, SETCOL, INV, SHR or SHD executes, when the 64th payload byte of a
LOAD commits, or on a reset or power-up, which make it all zero. -/
def Obligations.FrameChangesOnlyByItsWriters : Prop :=
  ∀ s t : State, step s = .next t → t.fb ≠ s.fb →
    (∃ i, commandTaken s = some i ∧ writesFrame i = true) ∨
    (∃ w, writeTaken s = some (.data w) ∧ s.ldp = true ∧ s.ldcnt.val = 63) ∨
    (resets s ∧ ∀ a, fbByte t a = 0x00)

/-- 20_memory R36: while SER ≠ IDLE, FB keeps its value in every step but a reset. -/
def Obligations.FrameIsFixedDuringAFlush : Prop :=
  ∀ s t : State, step s = .next t → s.ser ≠ .idle → ¬resets s → t.fb = s.fb

/-- 10_state R24: STATUS.PIX changes only when GETPIX executes, which writes the addressed pixel into it, or on reset, which
sets it to 0. -/
def Obligations.PixChangesOnlyByGetpix : Prop :=
  ∀ s t : State, step s = .next t →
    (∀ l x, commandTaken s = some (.getpix l x) → t.pix = pix s l x) ∧
    (resets s → t.pix = false) ∧
    ((∀ l x, commandTaken s ≠ some (.getpix l x)) → ¬resets s → t.pix = s.pix)

/-- 10_state R16: BRIGHT changes only by a host write to BRIGHT or by a reset. -/
def Obligations.BrightChangesOnlyByItsWrite : Prop :=
  ∀ s t : State, step s = .next t → t.bright ≠ s.bright →
    (∃ w, s.inputs.head? = some (.host (.write 3 w)) ∧ t.bright = w.setWidth 8) ∨ (resets s ∧ t.bright = 0xFF)

/-- 60_exceptions R91, R97: a recorded error is kept until a STATUS write or a reset clears it. -/
def Obligations.FirstErrorIsKeptUntilCleared : Prop :=
  ∀ s t : State, step s = .next t → s.err ≠ .noError →
    t.err = s.err ∨
    (t.err = .noError ∧ ((∃ w, s.inputs.head? = some (.host (.write 2 w))) ∨ resets s))

/-- 10_state R20, 40_framebuffer R50, 70 R105: OUT changes only at the end of a latch pulse, where it takes CH, by a reset during
the pulse, or by a power cycle; CH changes only while a flush sends, or by a power cycle. -/
def Obligations.DisplayChangesOnlyByTheFlush : Prop :=
  ∀ s t : State, step s = .next t →
    (t.out ≠ s.out →
      s.ser = .strobe ∧ ((s.inputs.head? = some .strobeEnd ∧ t.out = s.ch) ∨ s.inputs.head? = some .reset) ∨
      s.inputs.head? = some .powerUp) ∧
    (t.ch ≠ s.ch → (∃ k, s.ser = .xmit k) ∨ s.inputs.head? = some .powerUp)

/-- 40_framebuffer R50: a frame-buffer command writes FB, and besides it GETPIX writes PIX, LOAD writes LDP and LDCNT, and SETPIX
with F = 1 starts a flush. FLUSH (41_display_transmit R68) writes SER only. No command raises an error or writes BRIGHT, CH, OUT
or any other field. -/
def Obligations.CommandsWriteOnlyTheirFields : Prop :=
  ∀ (i : Instr) (s t : State), exec i s = .next t →
    t = { s with fb := t.fb, pix := t.pix, ldp := t.ldp, ldcnt := t.ldcnt, ser := t.ser } ∧
    (writesFrame i = false → t.fb = s.fb) ∧
    ((∀ l x, i ≠ .getpix l x) → t.pix = s.pix) ∧
    (i ≠ .load → t.ldp = s.ldp ∧ t.ldcnt = s.ldcnt) ∧
    ((∀ l x on, i ≠ .setpix l x on true) → i ≠ .flush → t.ser = s.ser)

/-- 10_state R16, 40_framebuffer R66: no command reads BRIGHT: with another brightness it does the same. -/
def Obligations.CommandsDoNotReadBright : Prop :=
  ∀ (i : Instr) (s t : State) (v : Byte),
    exec i s = .next t → exec i { s with bright := v } = .next { t with bright := v }

/-- Log 4, 7, 9, the model's own fields: no step changes the parameter TX_TIMEOUT, the traces TX and rdata only grow, and the
counter of draws does not fall. -/
def Obligations.ParameterIsFixedAndTracesGrow : Prop :=
  ∀ s t : State, step s = .next t →
    t.txTimeout = s.txTimeout ∧ s.tx <+: t.tx ∧ s.rdata <+: t.rdata ∧ s.draws ≤ t.draws

/-- Log 4, 6, the model's own form of "any value" (41_display_transmit R77; 70 R103 to R106): a reset, a power cycle and an
enabled timeout read the draws numbered from `s.draws` on, each number once, and leave the counter past every number they
read; no other step draws. So no draw is used twice in a run. -/
def Obligations.EachDrawIsUsedOnce : Prop :=
  ∀ s t : State, step s = .next t →
    (s.inputs.head? = some .reset →
      t.draws = s.draws + 2 ∧ t.stg = drawnBytes s.draws ∧
      (∀ k, s.ser = .xmit k → t.ch = drawnBytes (s.draws + 1)) ∧
      (s.ser = .strobe → t.out = mixBytes (drawnBytes (s.draws + 1)) s.out s.ch)) ∧
    (s.inputs.head? = some .powerUp →
      t.draws = s.draws + 3 ∧ t.stg = drawnBytes s.draws ∧ t.ch = drawnBytes (s.draws + 1) ∧
      t.out = drawnBytes (s.draws + 2)) ∧
    (∀ k, s.inputs.head? = some .txTimeout → s.ser = .xmit k → s.txTimeout.isSome = true →
      t.draws = s.draws + 1 ∧ t.ch = drawnBytes s.draws) ∧
    (¬resets s → ¬(s.inputs.head? = some .txTimeout ∧ (∃ k, s.ser = .xmit k) ∧ s.txTimeout.isSome = true) →
      t.draws = s.draws)

/-! ### Reset and invariants -/

/-- 10_state R26: the state after reset. STG, CH and OUT are not constrained. -/
def Obligations.ResetStateHasTheResetValues : Prop :=
  (∀ a < 64, fbByte State.reset a = 0x00) ∧ State.reset.bright = 0xFF ∧ State.reset.ldp = false ∧
  State.reset.ldcnt = 0 ∧ State.reset.ser = .idle ∧ strobeOut State.reset = false ∧ State.reset.pix = false ∧
  State.reset.err = .noError ∧ statusWord State.reset = 0x0000

/-- 70_reset_and_hazards R103, R104, R105: Reset sets the block's state to its reset values and drops a held access. OUT is
unchanged from XMIT and IDLE; from STROBE each of its bits is the old one or the bit of CH. CH is unchanged from IDLE and
STROBE, and anything from XMIT. That the
model's traces and parameter are kept over a reset is its own choice (DESIGN CHOICE, log 7, 9). -/
def Obligations.ResetInputSetsTheBlock : Prop :=
  ∀ (s : State) (rest : List Input), s.inputs = .reset :: rest →
    ∃ t, step s = .next t ∧
      (∀ a < 64, fbByte t a = 0x00) ∧
      t = { s with
            inputs := rest, fb := t.fb, bright := 0xFF, stg := t.stg, ldp := false, ldcnt := 0, ser := .idle,
            pix := false, err := .noError, held := none, ch := t.ch, out := t.out, draws := t.draws } ∧
      ((∀ k, s.ser ≠ .xmit k) → t.ch = s.ch) ∧
      (s.ser ≠ .strobe → t.out = s.out) ∧
      (s.ser = .strobe → ∀ j : Fin 64, ∀ i < 8,
        t.out[j.val].getLsbD i = s.out[j.val].getLsbD i ∨ t.out[j.val].getLsbD i = s.ch[j.val].getLsbD i)

/-- 70_reset_and_hazards R106: power-up is a reset, with CH and OUT anything. -/
def Obligations.PowerUpResetsTheBlock : Prop :=
  ∀ (s : State) (rest : List Input), s.inputs = .powerUp :: rest →
    ∃ t, step s = .next t ∧
      (∀ a < 64, fbByte t a = 0x00) ∧
      t = { s with
            inputs := rest, fb := t.fb, bright := 0xFF, stg := t.stg, ldp := false, ldcnt := 0, ser := .idle,
            pix := false, err := .noError, held := none, ch := t.ch, out := t.out, draws := t.draws }

/-- The invariant holds in the state after reset. -/
def Obligations.ResetStateSatisfiesTheInvariant : Prop := Inv State.reset

/-- Every step from every state that satisfies the invariant leads to one that satisfies it: memory in its canonical form
(10_state R15), LDCNT = 0 where LDP = 0 (R17), no pending LOAD while a flush runs (42 R82), and the bytes already sent in the
chain in their places (41 R69, R70; 20_memory R36). -/
def Obligations.EveryStepKeepsTheInvariant : Prop :=
  ∀ s t : State, Inv s → step s = .next t → Inv t

/-- 41_display_transmit R74: in a state that satisfies the invariant, the end of a latch pulse makes the LatchedFrame equal to
the frame buffer. -/
def Obligations.LatchedFrameIsTheFrameAfterAPulse : Prop :=
  ∀ (s t : State) (rest : List Input), Inv s → s.ser = .strobe → s.inputs = .strobeEnd :: rest → step s = .next t →
    ∀ k : Fin 64, (latchedFrame t)[k.val] = fbByte t k.val

/-! ### Brightness output -/

/-- 42_host_access R87: DUTY is a fraction, and 0 is the brightest setting; nothing else is known of it. That brightest means
the largest fraction is DEDUCED (log 10). -/
def Obligations.BrightZeroIsBrightest : Prop :=
  ∀ b : Byte, 0 ≤ duty b ∧ duty b ≤ duty 0 ∧ duty 0 ≤ 1
end

