-- ==== Sys2Proof/Laws/State.lean ====
section
/-! SUPPORT. What each update of the state does to each field: one lemma a field an update, so that no proof unfolds a record
update. -/

namespace Sys2Proof.Machine

variable (s : State)

/-! ### storeByte -/

@[simp] theorem storeByte_fb (a : Nat) (v : Byte) : (storeByte a v s).fb = s.fb.write a v := rfl
@[simp] theorem storeByte_bright (a : Nat) (v : Byte) : (storeByte a v s).bright = s.bright := rfl
@[simp] theorem storeByte_ldp (a : Nat) (v : Byte) : (storeByte a v s).ldp = s.ldp := rfl
@[simp] theorem storeByte_ldcnt (a : Nat) (v : Byte) : (storeByte a v s).ldcnt = s.ldcnt := rfl
@[simp] theorem storeByte_ser (a : Nat) (v : Byte) : (storeByte a v s).ser = s.ser := rfl
@[simp] theorem storeByte_pix (a : Nat) (v : Byte) : (storeByte a v s).pix = s.pix := rfl
@[simp] theorem storeByte_err (a : Nat) (v : Byte) : (storeByte a v s).err = s.err := rfl
@[simp] theorem storeByte_held (a : Nat) (v : Byte) : (storeByte a v s).held = s.held := rfl
@[simp] theorem storeByte_inputs (a : Nat) (v : Byte) : (storeByte a v s).inputs = s.inputs := rfl
@[simp] theorem storeByte_txTimeout (a : Nat) (v : Byte) : (storeByte a v s).txTimeout = s.txTimeout := rfl
@[simp] theorem storeByte_rdata (a : Nat) (v : Byte) : (storeByte a v s).rdata = s.rdata := rfl
@[simp] theorem storeByte_tx (a : Nat) (v : Byte) : (storeByte a v s).tx = s.tx := rfl
@[simp] theorem storeByte_draws (a : Nat) (v : Byte) : (storeByte a v s).draws = s.draws := rfl
@[simp] theorem storeByte_stg (a : Nat) (v : Byte) : (storeByte a v s).stg = s.stg := rfl
@[simp] theorem storeByte_ch (a : Nat) (v : Byte) : (storeByte a v s).ch = s.ch := rfl
@[simp] theorem storeByte_out (a : Nat) (v : Byte) : (storeByte a v s).out = s.out := rfl

/-! ### setFrame -/

@[simp] theorem setFrame_fb (f : Nat → Byte) : (setFrame f s).fb = Memory.ofFn f := rfl
@[simp] theorem setFrame_bright (f : Nat → Byte) : (setFrame f s).bright = s.bright := rfl
@[simp] theorem setFrame_ldp (f : Nat → Byte) : (setFrame f s).ldp = s.ldp := rfl
@[simp] theorem setFrame_ldcnt (f : Nat → Byte) : (setFrame f s).ldcnt = s.ldcnt := rfl
@[simp] theorem setFrame_ser (f : Nat → Byte) : (setFrame f s).ser = s.ser := rfl
@[simp] theorem setFrame_pix (f : Nat → Byte) : (setFrame f s).pix = s.pix := rfl
@[simp] theorem setFrame_err (f : Nat → Byte) : (setFrame f s).err = s.err := rfl
@[simp] theorem setFrame_held (f : Nat → Byte) : (setFrame f s).held = s.held := rfl
@[simp] theorem setFrame_inputs (f : Nat → Byte) : (setFrame f s).inputs = s.inputs := rfl
@[simp] theorem setFrame_txTimeout (f : Nat → Byte) : (setFrame f s).txTimeout = s.txTimeout := rfl
@[simp] theorem setFrame_rdata (f : Nat → Byte) : (setFrame f s).rdata = s.rdata := rfl
@[simp] theorem setFrame_tx (f : Nat → Byte) : (setFrame f s).tx = s.tx := rfl
@[simp] theorem setFrame_draws (f : Nat → Byte) : (setFrame f s).draws = s.draws := rfl
@[simp] theorem setFrame_stg (f : Nat → Byte) : (setFrame f s).stg = s.stg := rfl
@[simp] theorem setFrame_ch (f : Nat → Byte) : (setFrame f s).ch = s.ch := rfl
@[simp] theorem setFrame_out (f : Nat → Byte) : (setFrame f s).out = s.out := rfl

/-! ### raiseError -/

@[simp] theorem raiseError_fb (e : ErrorCode) : (raiseError e s).fb = s.fb := rfl
@[simp] theorem raiseError_bright (e : ErrorCode) : (raiseError e s).bright = s.bright := rfl
@[simp] theorem raiseError_ldp (e : ErrorCode) : (raiseError e s).ldp = s.ldp := rfl
@[simp] theorem raiseError_ldcnt (e : ErrorCode) : (raiseError e s).ldcnt = s.ldcnt := rfl
@[simp] theorem raiseError_ser (e : ErrorCode) : (raiseError e s).ser = s.ser := rfl
@[simp] theorem raiseError_pix (e : ErrorCode) : (raiseError e s).pix = s.pix := rfl
@[simp] theorem raiseError_err (e : ErrorCode) : (raiseError e s).err = if s.err = .noError then e else s.err := rfl
@[simp] theorem raiseError_held (e : ErrorCode) : (raiseError e s).held = s.held := rfl
@[simp] theorem raiseError_inputs (e : ErrorCode) : (raiseError e s).inputs = s.inputs := rfl
@[simp] theorem raiseError_txTimeout (e : ErrorCode) : (raiseError e s).txTimeout = s.txTimeout := rfl
@[simp] theorem raiseError_rdata (e : ErrorCode) : (raiseError e s).rdata = s.rdata := rfl
@[simp] theorem raiseError_tx (e : ErrorCode) : (raiseError e s).tx = s.tx := rfl
@[simp] theorem raiseError_draws (e : ErrorCode) : (raiseError e s).draws = s.draws := rfl
@[simp] theorem raiseError_stg (e : ErrorCode) : (raiseError e s).stg = s.stg := rfl
@[simp] theorem raiseError_ch (e : ErrorCode) : (raiseError e s).ch = s.ch := rfl
@[simp] theorem raiseError_out (e : ErrorCode) : (raiseError e s).out = s.out := rfl

/-! ### clearError -/

@[simp] theorem clearError_fb : (clearError s).fb = s.fb := rfl
@[simp] theorem clearError_bright : (clearError s).bright = s.bright := rfl
@[simp] theorem clearError_ldp : (clearError s).ldp = s.ldp := rfl
@[simp] theorem clearError_ldcnt : (clearError s).ldcnt = s.ldcnt := rfl
@[simp] theorem clearError_ser : (clearError s).ser = s.ser := rfl
@[simp] theorem clearError_pix : (clearError s).pix = s.pix := rfl
@[simp] theorem clearError_err : (clearError s).err = .noError := rfl
@[simp] theorem clearError_held : (clearError s).held = s.held := rfl
@[simp] theorem clearError_inputs : (clearError s).inputs = s.inputs := rfl
@[simp] theorem clearError_txTimeout : (clearError s).txTimeout = s.txTimeout := rfl
@[simp] theorem clearError_rdata : (clearError s).rdata = s.rdata := rfl
@[simp] theorem clearError_tx : (clearError s).tx = s.tx := rfl
@[simp] theorem clearError_draws : (clearError s).draws = s.draws := rfl
@[simp] theorem clearError_stg : (clearError s).stg = s.stg := rfl
@[simp] theorem clearError_ch : (clearError s).ch = s.ch := rfl
@[simp] theorem clearError_out : (clearError s).out = s.out := rfl

/-! ### recordPixel -/

@[simp] theorem recordPixel_fb (b : Bool) : (recordPixel b s).fb = s.fb := rfl
@[simp] theorem recordPixel_bright (b : Bool) : (recordPixel b s).bright = s.bright := rfl
@[simp] theorem recordPixel_ldp (b : Bool) : (recordPixel b s).ldp = s.ldp := rfl
@[simp] theorem recordPixel_ldcnt (b : Bool) : (recordPixel b s).ldcnt = s.ldcnt := rfl
@[simp] theorem recordPixel_ser (b : Bool) : (recordPixel b s).ser = s.ser := rfl
@[simp] theorem recordPixel_pix (b : Bool) : (recordPixel b s).pix = b := rfl
@[simp] theorem recordPixel_err (b : Bool) : (recordPixel b s).err = s.err := rfl
@[simp] theorem recordPixel_held (b : Bool) : (recordPixel b s).held = s.held := rfl
@[simp] theorem recordPixel_inputs (b : Bool) : (recordPixel b s).inputs = s.inputs := rfl
@[simp] theorem recordPixel_txTimeout (b : Bool) : (recordPixel b s).txTimeout = s.txTimeout := rfl
@[simp] theorem recordPixel_rdata (b : Bool) : (recordPixel b s).rdata = s.rdata := rfl
@[simp] theorem recordPixel_tx (b : Bool) : (recordPixel b s).tx = s.tx := rfl
@[simp] theorem recordPixel_draws (b : Bool) : (recordPixel b s).draws = s.draws := rfl
@[simp] theorem recordPixel_stg (b : Bool) : (recordPixel b s).stg = s.stg := rfl
@[simp] theorem recordPixel_ch (b : Bool) : (recordPixel b s).ch = s.ch := rfl
@[simp] theorem recordPixel_out (b : Bool) : (recordPixel b s).out = s.out := rfl

/-! ### setBright -/

@[simp] theorem setBright_fb (v : Byte) : (setBright v s).fb = s.fb := rfl
@[simp] theorem setBright_bright (v : Byte) : (setBright v s).bright = v := rfl
@[simp] theorem setBright_ldp (v : Byte) : (setBright v s).ldp = s.ldp := rfl
@[simp] theorem setBright_ldcnt (v : Byte) : (setBright v s).ldcnt = s.ldcnt := rfl
@[simp] theorem setBright_ser (v : Byte) : (setBright v s).ser = s.ser := rfl
@[simp] theorem setBright_pix (v : Byte) : (setBright v s).pix = s.pix := rfl
@[simp] theorem setBright_err (v : Byte) : (setBright v s).err = s.err := rfl
@[simp] theorem setBright_held (v : Byte) : (setBright v s).held = s.held := rfl
@[simp] theorem setBright_inputs (v : Byte) : (setBright v s).inputs = s.inputs := rfl
@[simp] theorem setBright_txTimeout (v : Byte) : (setBright v s).txTimeout = s.txTimeout := rfl
@[simp] theorem setBright_rdata (v : Byte) : (setBright v s).rdata = s.rdata := rfl
@[simp] theorem setBright_tx (v : Byte) : (setBright v s).tx = s.tx := rfl
@[simp] theorem setBright_draws (v : Byte) : (setBright v s).draws = s.draws := rfl
@[simp] theorem setBright_stg (v : Byte) : (setBright v s).stg = s.stg := rfl
@[simp] theorem setBright_ch (v : Byte) : (setBright v s).ch = s.ch := rfl
@[simp] theorem setBright_out (v : Byte) : (setBright v s).out = s.out := rfl

/-! ### loadStart -/

@[simp] theorem loadStart_fb : (loadStart s).fb = s.fb := rfl
@[simp] theorem loadStart_bright : (loadStart s).bright = s.bright := rfl
@[simp] theorem loadStart_ldp : (loadStart s).ldp = true := rfl
@[simp] theorem loadStart_ldcnt : (loadStart s).ldcnt = 0 := rfl
@[simp] theorem loadStart_ser : (loadStart s).ser = s.ser := rfl
@[simp] theorem loadStart_pix : (loadStart s).pix = s.pix := rfl
@[simp] theorem loadStart_err : (loadStart s).err = s.err := rfl
@[simp] theorem loadStart_held : (loadStart s).held = s.held := rfl
@[simp] theorem loadStart_inputs : (loadStart s).inputs = s.inputs := rfl
@[simp] theorem loadStart_txTimeout : (loadStart s).txTimeout = s.txTimeout := rfl
@[simp] theorem loadStart_rdata : (loadStart s).rdata = s.rdata := rfl
@[simp] theorem loadStart_tx : (loadStart s).tx = s.tx := rfl
@[simp] theorem loadStart_draws : (loadStart s).draws = s.draws := rfl
@[simp] theorem loadStart_stg : (loadStart s).stg = s.stg := rfl
@[simp] theorem loadStart_ch : (loadStart s).ch = s.ch := rfl
@[simp] theorem loadStart_out : (loadStart s).out = s.out := rfl

/-! ### loadAbandon -/

@[simp] theorem loadAbandon_fb : (loadAbandon s).fb = s.fb := rfl
@[simp] theorem loadAbandon_bright : (loadAbandon s).bright = s.bright := rfl
@[simp] theorem loadAbandon_ldp : (loadAbandon s).ldp = false := rfl
@[simp] theorem loadAbandon_ldcnt : (loadAbandon s).ldcnt = 0 := rfl
@[simp] theorem loadAbandon_ser : (loadAbandon s).ser = s.ser := rfl
@[simp] theorem loadAbandon_pix : (loadAbandon s).pix = s.pix := rfl
@[simp] theorem loadAbandon_err : (loadAbandon s).err = if s.err = .noError then .loadAbandoned else s.err := rfl
@[simp] theorem loadAbandon_held : (loadAbandon s).held = s.held := rfl
@[simp] theorem loadAbandon_inputs : (loadAbandon s).inputs = s.inputs := rfl
@[simp] theorem loadAbandon_txTimeout : (loadAbandon s).txTimeout = s.txTimeout := rfl
@[simp] theorem loadAbandon_rdata : (loadAbandon s).rdata = s.rdata := rfl
@[simp] theorem loadAbandon_tx : (loadAbandon s).tx = s.tx := rfl
@[simp] theorem loadAbandon_draws : (loadAbandon s).draws = s.draws := rfl
@[simp] theorem loadAbandon_stg : (loadAbandon s).stg = s.stg := rfl
@[simp] theorem loadAbandon_ch : (loadAbandon s).ch = s.ch := rfl
@[simp] theorem loadAbandon_out : (loadAbandon s).out = s.out := rfl

/-! ### stageByte -/

@[simp] theorem stageByte_fb (v : Byte) : (stageByte v s).fb = s.fb := rfl
@[simp] theorem stageByte_bright (v : Byte) : (stageByte v s).bright = s.bright := rfl
@[simp] theorem stageByte_ldp (v : Byte) : (stageByte v s).ldp = s.ldp := rfl
@[simp] theorem stageByte_ldcnt (v : Byte) : (stageByte v s).ldcnt = s.ldcnt := rfl
@[simp] theorem stageByte_ser (v : Byte) : (stageByte v s).ser = s.ser := rfl
@[simp] theorem stageByte_pix (v : Byte) : (stageByte v s).pix = s.pix := rfl
@[simp] theorem stageByte_err (v : Byte) : (stageByte v s).err = s.err := rfl
@[simp] theorem stageByte_held (v : Byte) : (stageByte v s).held = s.held := rfl
@[simp] theorem stageByte_inputs (v : Byte) : (stageByte v s).inputs = s.inputs := rfl
@[simp] theorem stageByte_txTimeout (v : Byte) : (stageByte v s).txTimeout = s.txTimeout := rfl
@[simp] theorem stageByte_rdata (v : Byte) : (stageByte v s).rdata = s.rdata := rfl
@[simp] theorem stageByte_tx (v : Byte) : (stageByte v s).tx = s.tx := rfl
@[simp] theorem stageByte_draws (v : Byte) : (stageByte v s).draws = s.draws := rfl
@[simp] theorem stageByte_stg (v : Byte) : (stageByte v s).stg = s.stg.set s.ldcnt.val v s.ldcnt.isLt := rfl
@[simp] theorem stageByte_ch (v : Byte) : (stageByte v s).ch = s.ch := rfl
@[simp] theorem stageByte_out (v : Byte) : (stageByte v s).out = s.out := rfl

/-! ### loadCommit -/

@[simp] theorem loadCommit_fb : (loadCommit s).fb = Memory.ofFn fun a => if h : a < 64 then s.stg[a] else unlistedByte := rfl
@[simp] theorem loadCommit_bright : (loadCommit s).bright = s.bright := rfl
@[simp] theorem loadCommit_ldp : (loadCommit s).ldp = false := rfl
@[simp] theorem loadCommit_ldcnt : (loadCommit s).ldcnt = 0 := rfl
@[simp] theorem loadCommit_ser : (loadCommit s).ser = s.ser := rfl
@[simp] theorem loadCommit_pix : (loadCommit s).pix = s.pix := rfl
@[simp] theorem loadCommit_err : (loadCommit s).err = s.err := rfl
@[simp] theorem loadCommit_held : (loadCommit s).held = s.held := rfl
@[simp] theorem loadCommit_inputs : (loadCommit s).inputs = s.inputs := rfl
@[simp] theorem loadCommit_txTimeout : (loadCommit s).txTimeout = s.txTimeout := rfl
@[simp] theorem loadCommit_rdata : (loadCommit s).rdata = s.rdata := rfl
@[simp] theorem loadCommit_tx : (loadCommit s).tx = s.tx := rfl
@[simp] theorem loadCommit_draws : (loadCommit s).draws = s.draws := rfl
@[simp] theorem loadCommit_stg : (loadCommit s).stg = s.stg := rfl
@[simp] theorem loadCommit_ch : (loadCommit s).ch = s.ch := rfl
@[simp] theorem loadCommit_out : (loadCommit s).out = s.out := rfl

/-! ### flushStart -/

@[simp] theorem flushStart_fb : (flushStart s).fb = s.fb := rfl
@[simp] theorem flushStart_bright : (flushStart s).bright = s.bright := rfl
@[simp] theorem flushStart_ldp : (flushStart s).ldp = s.ldp := rfl
@[simp] theorem flushStart_ldcnt : (flushStart s).ldcnt = s.ldcnt := rfl
@[simp] theorem flushStart_ser : (flushStart s).ser = .xmit 0 := rfl
@[simp] theorem flushStart_pix : (flushStart s).pix = s.pix := rfl
@[simp] theorem flushStart_err : (flushStart s).err = s.err := rfl
@[simp] theorem flushStart_held : (flushStart s).held = s.held := rfl
@[simp] theorem flushStart_inputs : (flushStart s).inputs = s.inputs := rfl
@[simp] theorem flushStart_txTimeout : (flushStart s).txTimeout = s.txTimeout := rfl
@[simp] theorem flushStart_rdata : (flushStart s).rdata = s.rdata := rfl
@[simp] theorem flushStart_tx : (flushStart s).tx = s.tx := rfl
@[simp] theorem flushStart_draws : (flushStart s).draws = s.draws := rfl
@[simp] theorem flushStart_stg : (flushStart s).stg = s.stg := rfl
@[simp] theorem flushStart_ch : (flushStart s).ch = s.ch := rfl
@[simp] theorem flushStart_out : (flushStart s).out = s.out := rfl

/-! ### shiftIn -/

@[simp] theorem shiftIn_fb (v : Byte) : (shiftIn v s).fb = s.fb := by simp only [shiftIn]
@[simp] theorem shiftIn_bright (v : Byte) : (shiftIn v s).bright = s.bright := by simp only [shiftIn]
@[simp] theorem shiftIn_ldp (v : Byte) : (shiftIn v s).ldp = s.ldp := by simp only [shiftIn]
@[simp] theorem shiftIn_ldcnt (v : Byte) : (shiftIn v s).ldcnt = s.ldcnt := by simp only [shiftIn]
@[simp] theorem shiftIn_ser (v : Byte) : (shiftIn v s).ser = s.ser := by simp only [shiftIn]
@[simp] theorem shiftIn_pix (v : Byte) : (shiftIn v s).pix = s.pix := by simp only [shiftIn]
@[simp] theorem shiftIn_err (v : Byte) : (shiftIn v s).err = s.err := by simp only [shiftIn]
@[simp] theorem shiftIn_held (v : Byte) : (shiftIn v s).held = s.held := by simp only [shiftIn]
@[simp] theorem shiftIn_inputs (v : Byte) : (shiftIn v s).inputs = s.inputs := by simp only [shiftIn]
@[simp] theorem shiftIn_txTimeout (v : Byte) : (shiftIn v s).txTimeout = s.txTimeout := by simp only [shiftIn]
@[simp] theorem shiftIn_rdata (v : Byte) : (shiftIn v s).rdata = s.rdata := by simp only [shiftIn]
@[simp] theorem shiftIn_tx (v : Byte) : (shiftIn v s).tx = s.tx := by simp only [shiftIn]
@[simp] theorem shiftIn_draws (v : Byte) : (shiftIn v s).draws = s.draws := by simp only [shiftIn]
@[simp] theorem shiftIn_stg (v : Byte) : (shiftIn v s).stg = s.stg := by simp only [shiftIn]
@[simp] theorem shiftIn_ch (v : Byte) : (shiftIn v s).ch = Vector.ofFn fun j => if j.val = 0 then v else s.ch[j.val - 1] := by simp only [shiftIn]
@[simp] theorem shiftIn_out (v : Byte) : (shiftIn v s).out = s.out := by simp only [shiftIn]

/-! ### emit -/

@[simp] theorem emit_fb (v : Byte) : (emit v s).fb = s.fb := rfl
@[simp] theorem emit_bright (v : Byte) : (emit v s).bright = s.bright := rfl
@[simp] theorem emit_ldp (v : Byte) : (emit v s).ldp = s.ldp := rfl
@[simp] theorem emit_ldcnt (v : Byte) : (emit v s).ldcnt = s.ldcnt := rfl
@[simp] theorem emit_ser (v : Byte) : (emit v s).ser = s.ser := rfl
@[simp] theorem emit_pix (v : Byte) : (emit v s).pix = s.pix := rfl
@[simp] theorem emit_err (v : Byte) : (emit v s).err = s.err := rfl
@[simp] theorem emit_held (v : Byte) : (emit v s).held = s.held := rfl
@[simp] theorem emit_inputs (v : Byte) : (emit v s).inputs = s.inputs := rfl
@[simp] theorem emit_txTimeout (v : Byte) : (emit v s).txTimeout = s.txTimeout := rfl
@[simp] theorem emit_rdata (v : Byte) : (emit v s).rdata = s.rdata := rfl
@[simp] theorem emit_tx (v : Byte) : (emit v s).tx = s.tx ++ [v] := rfl
@[simp] theorem emit_draws (v : Byte) : (emit v s).draws = s.draws := rfl
@[simp] theorem emit_stg (v : Byte) : (emit v s).stg = s.stg := rfl
@[simp] theorem emit_ch (v : Byte) : (emit v s).ch = s.ch := rfl
@[simp] theorem emit_out (v : Byte) : (emit v s).out = s.out := rfl

/-! ### advanceSer -/

@[simp] theorem advanceSer_fb (k : Fin 64) : (advanceSer k s).fb = s.fb := rfl
@[simp] theorem advanceSer_bright (k : Fin 64) : (advanceSer k s).bright = s.bright := rfl
@[simp] theorem advanceSer_ldp (k : Fin 64) : (advanceSer k s).ldp = s.ldp := rfl
@[simp] theorem advanceSer_ldcnt (k : Fin 64) : (advanceSer k s).ldcnt = s.ldcnt := rfl
@[simp] theorem advanceSer_ser (k : Fin 64) : (advanceSer k s).ser = if h : k.val + 1 < 64 then .xmit ⟨k.val + 1, h⟩ else .strobe := rfl
@[simp] theorem advanceSer_pix (k : Fin 64) : (advanceSer k s).pix = s.pix := rfl
@[simp] theorem advanceSer_err (k : Fin 64) : (advanceSer k s).err = s.err := rfl
@[simp] theorem advanceSer_held (k : Fin 64) : (advanceSer k s).held = s.held := rfl
@[simp] theorem advanceSer_inputs (k : Fin 64) : (advanceSer k s).inputs = s.inputs := rfl
@[simp] theorem advanceSer_txTimeout (k : Fin 64) : (advanceSer k s).txTimeout = s.txTimeout := rfl
@[simp] theorem advanceSer_rdata (k : Fin 64) : (advanceSer k s).rdata = s.rdata := rfl
@[simp] theorem advanceSer_tx (k : Fin 64) : (advanceSer k s).tx = s.tx := rfl
@[simp] theorem advanceSer_draws (k : Fin 64) : (advanceSer k s).draws = s.draws := rfl
@[simp] theorem advanceSer_stg (k : Fin 64) : (advanceSer k s).stg = s.stg := rfl
@[simp] theorem advanceSer_ch (k : Fin 64) : (advanceSer k s).ch = s.ch := rfl
@[simp] theorem advanceSer_out (k : Fin 64) : (advanceSer k s).out = s.out := rfl

/-! ### sendByte -/

@[simp] theorem sendByte_fb (k : Fin 64) : (sendByte k s).fb = s.fb := by simp [sendByte]
@[simp] theorem sendByte_bright (k : Fin 64) : (sendByte k s).bright = s.bright := by simp [sendByte]
@[simp] theorem sendByte_ldp (k : Fin 64) : (sendByte k s).ldp = s.ldp := by simp [sendByte]
@[simp] theorem sendByte_ldcnt (k : Fin 64) : (sendByte k s).ldcnt = s.ldcnt := by simp [sendByte]
@[simp] theorem sendByte_ser (k : Fin 64) : (sendByte k s).ser = if h : k.val + 1 < 64 then .xmit ⟨k.val + 1, h⟩ else .strobe := by simp [sendByte]
@[simp] theorem sendByte_pix (k : Fin 64) : (sendByte k s).pix = s.pix := by simp [sendByte]
@[simp] theorem sendByte_err (k : Fin 64) : (sendByte k s).err = s.err := by simp [sendByte]
@[simp] theorem sendByte_held (k : Fin 64) : (sendByte k s).held = s.held := by simp [sendByte]
@[simp] theorem sendByte_inputs (k : Fin 64) : (sendByte k s).inputs = s.inputs := by simp [sendByte]
@[simp] theorem sendByte_txTimeout (k : Fin 64) : (sendByte k s).txTimeout = s.txTimeout := by simp [sendByte]
@[simp] theorem sendByte_rdata (k : Fin 64) : (sendByte k s).rdata = s.rdata := by simp [sendByte]
@[simp] theorem sendByte_tx (k : Fin 64) : (sendByte k s).tx = s.tx ++ [fbByte s k.val] := by simp [sendByte]
@[simp] theorem sendByte_draws (k : Fin 64) : (sendByte k s).draws = s.draws := by simp [sendByte]
@[simp] theorem sendByte_stg (k : Fin 64) : (sendByte k s).stg = s.stg := by simp [sendByte]
@[simp] theorem sendByte_ch (k : Fin 64) : (sendByte k s).ch = (shiftIn (fbByte s k.val) s).ch := by simp [sendByte]
@[simp] theorem sendByte_out (k : Fin 64) : (sendByte k s).out = s.out := by simp [sendByte]

/-! ### latch -/

@[simp] theorem latch_fb : (latch s).fb = s.fb := rfl
@[simp] theorem latch_bright : (latch s).bright = s.bright := rfl
@[simp] theorem latch_ldp : (latch s).ldp = s.ldp := rfl
@[simp] theorem latch_ldcnt : (latch s).ldcnt = s.ldcnt := rfl
@[simp] theorem latch_ser : (latch s).ser = .idle := rfl
@[simp] theorem latch_pix : (latch s).pix = s.pix := rfl
@[simp] theorem latch_err : (latch s).err = s.err := rfl
@[simp] theorem latch_held : (latch s).held = s.held := rfl
@[simp] theorem latch_inputs : (latch s).inputs = s.inputs := rfl
@[simp] theorem latch_txTimeout : (latch s).txTimeout = s.txTimeout := rfl
@[simp] theorem latch_rdata : (latch s).rdata = s.rdata := rfl
@[simp] theorem latch_tx : (latch s).tx = s.tx := rfl
@[simp] theorem latch_draws : (latch s).draws = s.draws := rfl
@[simp] theorem latch_stg : (latch s).stg = s.stg := rfl
@[simp] theorem latch_ch : (latch s).ch = s.ch := rfl
@[simp] theorem latch_out : (latch s).out = s.ch := rfl

/-! ### abortFlush -/

@[simp] theorem abortFlush_fb : (abortFlush s).fb = s.fb := rfl
@[simp] theorem abortFlush_bright : (abortFlush s).bright = s.bright := rfl
@[simp] theorem abortFlush_ldp : (abortFlush s).ldp = s.ldp := rfl
@[simp] theorem abortFlush_ldcnt : (abortFlush s).ldcnt = s.ldcnt := rfl
@[simp] theorem abortFlush_ser : (abortFlush s).ser = .idle := rfl
@[simp] theorem abortFlush_pix : (abortFlush s).pix = s.pix := rfl
@[simp] theorem abortFlush_err : (abortFlush s).err = if s.err = .noError then .txTimeout else s.err := rfl
@[simp] theorem abortFlush_held : (abortFlush s).held = s.held := rfl
@[simp] theorem abortFlush_inputs : (abortFlush s).inputs = s.inputs := rfl
@[simp] theorem abortFlush_txTimeout : (abortFlush s).txTimeout = s.txTimeout := rfl
@[simp] theorem abortFlush_rdata : (abortFlush s).rdata = s.rdata := rfl
@[simp] theorem abortFlush_tx : (abortFlush s).tx = s.tx := rfl
@[simp] theorem abortFlush_draws : (abortFlush s).draws = s.draws + 1 := rfl
@[simp] theorem abortFlush_stg : (abortFlush s).stg = s.stg := rfl
@[simp] theorem abortFlush_ch : (abortFlush s).ch = drawnBytes s.draws := rfl
@[simp] theorem abortFlush_out : (abortFlush s).out = s.out := rfl

/-! ### park -/

@[simp] theorem park_fb (p : PortWrite) : (park p s).fb = s.fb := rfl
@[simp] theorem park_bright (p : PortWrite) : (park p s).bright = s.bright := rfl
@[simp] theorem park_ldp (p : PortWrite) : (park p s).ldp = s.ldp := rfl
@[simp] theorem park_ldcnt (p : PortWrite) : (park p s).ldcnt = s.ldcnt := rfl
@[simp] theorem park_ser (p : PortWrite) : (park p s).ser = s.ser := rfl
@[simp] theorem park_pix (p : PortWrite) : (park p s).pix = s.pix := rfl
@[simp] theorem park_err (p : PortWrite) : (park p s).err = s.err := rfl
@[simp] theorem park_held (p : PortWrite) : (park p s).held = some p := rfl
@[simp] theorem park_inputs (p : PortWrite) : (park p s).inputs = s.inputs := rfl
@[simp] theorem park_txTimeout (p : PortWrite) : (park p s).txTimeout = s.txTimeout := rfl
@[simp] theorem park_rdata (p : PortWrite) : (park p s).rdata = s.rdata := rfl
@[simp] theorem park_tx (p : PortWrite) : (park p s).tx = s.tx := rfl
@[simp] theorem park_draws (p : PortWrite) : (park p s).draws = s.draws := rfl
@[simp] theorem park_stg (p : PortWrite) : (park p s).stg = s.stg := rfl
@[simp] theorem park_ch (p : PortWrite) : (park p s).ch = s.ch := rfl
@[simp] theorem park_out (p : PortWrite) : (park p s).out = s.out := rfl

/-! ### answer -/

@[simp] theorem answer_fb (w : Word) : (answer w s).fb = s.fb := rfl
@[simp] theorem answer_bright (w : Word) : (answer w s).bright = s.bright := rfl
@[simp] theorem answer_ldp (w : Word) : (answer w s).ldp = s.ldp := rfl
@[simp] theorem answer_ldcnt (w : Word) : (answer w s).ldcnt = s.ldcnt := rfl
@[simp] theorem answer_ser (w : Word) : (answer w s).ser = s.ser := rfl
@[simp] theorem answer_pix (w : Word) : (answer w s).pix = s.pix := rfl
@[simp] theorem answer_err (w : Word) : (answer w s).err = s.err := rfl
@[simp] theorem answer_held (w : Word) : (answer w s).held = s.held := rfl
@[simp] theorem answer_inputs (w : Word) : (answer w s).inputs = s.inputs := rfl
@[simp] theorem answer_txTimeout (w : Word) : (answer w s).txTimeout = s.txTimeout := rfl
@[simp] theorem answer_rdata (w : Word) : (answer w s).rdata = s.rdata ++ [w] := rfl
@[simp] theorem answer_tx (w : Word) : (answer w s).tx = s.tx := rfl
@[simp] theorem answer_draws (w : Word) : (answer w s).draws = s.draws := rfl
@[simp] theorem answer_stg (w : Word) : (answer w s).stg = s.stg := rfl
@[simp] theorem answer_ch (w : Word) : (answer w s).ch = s.ch := rfl
@[simp] theorem answer_out (w : Word) : (answer w s).out = s.out := rfl

/-! ### resetInput -/

@[simp] theorem resetInput_fb : (resetInput s).fb = [] := rfl
@[simp] theorem resetInput_bright : (resetInput s).bright = 0xFF := rfl
@[simp] theorem resetInput_ldp : (resetInput s).ldp = false := rfl
@[simp] theorem resetInput_ldcnt : (resetInput s).ldcnt = 0 := rfl
@[simp] theorem resetInput_ser : (resetInput s).ser = .idle := rfl
@[simp] theorem resetInput_pix : (resetInput s).pix = false := rfl
@[simp] theorem resetInput_err : (resetInput s).err = .noError := rfl
@[simp] theorem resetInput_held : (resetInput s).held = none := rfl
@[simp] theorem resetInput_inputs : (resetInput s).inputs = s.inputs := rfl
@[simp] theorem resetInput_txTimeout : (resetInput s).txTimeout = s.txTimeout := rfl
@[simp] theorem resetInput_rdata : (resetInput s).rdata = s.rdata := rfl
@[simp] theorem resetInput_tx : (resetInput s).tx = s.tx := rfl
@[simp] theorem resetInput_draws : (resetInput s).draws = s.draws + 2 := rfl
@[simp] theorem resetInput_stg : (resetInput s).stg = drawnBytes s.draws := rfl
@[simp] theorem resetInput_ch : (resetInput s).ch = chainAfterReset s := rfl
@[simp] theorem resetInput_out : (resetInput s).out = outAfterReset s := rfl

/-! ### powerUp -/

@[simp] theorem powerUp_fb : (powerUp s).fb = [] := rfl
@[simp] theorem powerUp_bright : (powerUp s).bright = 0xFF := rfl
@[simp] theorem powerUp_ldp : (powerUp s).ldp = false := rfl
@[simp] theorem powerUp_ldcnt : (powerUp s).ldcnt = 0 := rfl
@[simp] theorem powerUp_ser : (powerUp s).ser = .idle := rfl
@[simp] theorem powerUp_pix : (powerUp s).pix = false := rfl
@[simp] theorem powerUp_err : (powerUp s).err = .noError := rfl
@[simp] theorem powerUp_held : (powerUp s).held = none := rfl
@[simp] theorem powerUp_inputs : (powerUp s).inputs = s.inputs := rfl
@[simp] theorem powerUp_txTimeout : (powerUp s).txTimeout = s.txTimeout := rfl
@[simp] theorem powerUp_rdata : (powerUp s).rdata = s.rdata := rfl
@[simp] theorem powerUp_tx : (powerUp s).tx = s.tx := rfl
@[simp] theorem powerUp_draws : (powerUp s).draws = s.draws + 3 := rfl
@[simp] theorem powerUp_stg : (powerUp s).stg = drawnBytes s.draws := rfl
@[simp] theorem powerUp_ch : (powerUp s).ch = drawnBytes (s.draws + 1) := rfl
@[simp] theorem powerUp_out : (powerUp s).out = drawnBytes (s.draws + 2) := rfl

end Sys2Proof.Machine
end

