-- ==== Sys2Proof/Laws/Memory.lean ====
section
/-! SUPPORT. The laws of the frame-buffer memory: read after write, the canonical form is kept, equal memories are equal
data. -/

namespace Sys2Proof.Machine

/-- The cells that `Memory.ofFn` makes from a list of addresses. -/
def cellsOf (f : Nat → Byte) (as : List Nat) : Memory :=
  as.filterMap fun a => if f a = unlistedByte then none else some (a, f a)

theorem ofFn_eq_cellsOf (f : Nat → Byte) : Memory.ofFn f = cellsOf f (List.range 64) := rfl

theorem cellsOf_cons (f : Nat → Byte) (a : Nat) (as : List Nat) :
    cellsOf f (a :: as) = if f a = unlistedByte then cellsOf f as else (a, f a) :: cellsOf f as := by
  simp only [cellsOf, List.filterMap_cons]
  split <;> simp_all

theorem mem_cellsOf {f : Nat → Byte} {as : List Nat} {c : Host.Cell} :
    c ∈ cellsOf f as ↔ c.1 ∈ as ∧ c.2 = f c.1 ∧ c.2 ≠ unlistedByte := by
  obtain ⟨a, v⟩ := c
  simp only [cellsOf, List.mem_filterMap]
  constructor
  · rintro ⟨b, hb, h⟩
    split at h
    · cases h
    · cases h
      exact ⟨hb, rfl, ‹_›⟩
  · rintro ⟨ha, rfl, hv⟩
    exact ⟨a, ha, by simp_all⟩

theorem read_cons (c : Host.Cell) (m : Memory) (a : Nat) :
    Memory.read (c :: m) a = if a = c.1 then c.2 else Memory.read m a := by
  obtain ⟨b, v⟩ := c
  by_cases h : a = b
  · subst h
    simp [Memory.read]
  · have : (a == b) = false := by simpa using h
    simp [Memory.read, List.lookup_cons, this, h]

theorem read_cellsOf (f : Nat → Byte) (as : List Nat) (a : Nat) :
    (cellsOf f as).read a = if a ∈ as then f a else unlistedByte := by
  induction as with
  | nil => simp [cellsOf, Memory.read]
  | cons b bs ih =>
    rw [cellsOf_cons]
    by_cases hz : f b = unlistedByte
    · rw [if_pos hz, ih]
      by_cases hab : a = b
      · subst hab
        simp [hz]
      · simp [hab]
    · rw [if_neg hz, read_cons, ih]
      by_cases hab : a = b
      · subst hab
        simp
      · simp [hab]

/-- Read after a whole-frame write. -/
theorem read_ofFn (f : Nat → Byte) (a : Nat) :
    (Memory.ofFn f).read a = if a < 64 then f a else unlistedByte := by
  rw [ofFn_eq_cellsOf, read_cellsOf]
  simp

@[simp] theorem read_ofFn_of_lt (f : Nat → Byte) {a : Nat} (h : a < 64) : (Memory.ofFn f).read a = f a := by
  rw [read_ofFn, if_pos h]

/-- Every whole-frame write gives the canonical form. -/
theorem ofFn_wf (f : Nat → Byte) : (Memory.ofFn f).wf := by
  refine ⟨?_, fun c hc => ?_⟩
  · have h : (List.range 64).Pairwise (· < ·) := List.pairwise_lt_range
    refine List.Pairwise.filterMap _ (fun a b hab c hc d hd => ?_) h
    split at hc
    · cases hc
    · split at hd
      · cases hd
      · cases hc
        cases hd
        exact hab
  · rw [ofFn_eq_cellsOf, mem_cellsOf] at hc
    exact ⟨by simpa using hc.1, hc.2.2⟩

/-- A byte write keeps the canonical form. -/
theorem write_wf (m : Memory) (a : Nat) (v : Byte) : (m.write a v).wf := ofFn_wf _

theorem nil_wf : Memory.wf [] := by simp [Memory.wf]

/-- Read after a byte write, at every address of the frame buffer. -/
@[simp] theorem read_write_of_lt (m : Memory) (a i : Nat) (v : Byte) (h : i < 64) :
    (m.write a v).read i = if i = a then v else m.read i := by
  simp [Memory.write, h]

theorem read_nil (a : Nat) : Memory.read [] a = unlistedByte := rfl

/-- A listed byte is what its address reads as. -/
theorem read_of_mem {m : Memory} (h : m.wf) {c : Host.Cell} (hc : c ∈ m) : m.read c.1 = c.2 := by
  induction m with
  | nil => cases hc
  | cons d m ih =>
    rw [read_cons]
    obtain ⟨hp, hb⟩ := h
    rw [List.pairwise_cons] at hp
    rcases List.mem_cons.1 hc with rfl | hc
    · simp
    · have : c.1 ≠ d.1 := (Nat.ne_of_lt (hp.1 c hc)).symm
      rw [if_neg this]
      exact ih ⟨hp.2, fun e he => hb e (List.mem_cons_of_mem _ he)⟩ hc

theorem read_ne_of_not_mem {m : Memory} {a : Nat} (h : ∀ c ∈ m, c.1 ≠ a) : m.read a = unlistedByte := by
  induction m with
  | nil => rfl
  | cons d m ih =>
    have hd : a ≠ d.1 := (h d (List.mem_cons_self ..)).symm
    rw [read_cons, if_neg hd]
    exact ih fun c hc => h c (List.mem_cons_of_mem _ hc)

/-- Membership of a canonical memory is decided by reading. -/
theorem mem_iff_read {m : Memory} (h : m.wf) (c : Host.Cell) :
    c ∈ m ↔ c.1 < 64 ∧ c.2 = m.read c.1 ∧ c.2 ≠ unlistedByte := by
  constructor
  · exact fun hc => ⟨(h.2 c hc).1, (read_of_mem h hc).symm, (h.2 c hc).2⟩
  · rintro ⟨-, hr, hz⟩
    by_contra hn
    refine hz (hr.trans (read_ne_of_not_mem fun d hd hda => hn ?_))
    have := read_of_mem h hd
    rw [hda, ← hr] at this
    obtain ⟨d1, d2⟩ := d
    obtain ⟨c1, c2⟩ := c
    simp only at hda this
    subst hda this
    exact hd

/-- Equal memories are equal data: a canonical memory is determined by its reads. -/
theorem wf_ext {m n : Memory} (hm : m.wf) (hn : n.wf) (h : ∀ a < 64, m.read a = n.read a) : m = n := by
  have hmem : ∀ c, c ∈ m ↔ c ∈ n := fun c => by
    rw [mem_iff_read hm, mem_iff_read hn]
    exact and_congr_right fun hc => by rw [h _ hc]
  have hs : ∀ {p : Memory}, p.wf → p.Nodup := fun hp =>
    hp.1.imp fun hab he => by rw [he] at hab; exact Nat.lt_irrefl _ hab
  exact List.Perm.eq_of_pairwise (fun a b _ _ hab hba => absurd hab (Nat.lt_asymm hba)) hm.1 hn.1
    ((List.perm_ext_iff_of_nodup (hs hm) (hs hn)).2 hmem)

/-- A canonical memory is the memory of its own reads. -/
theorem eq_ofFn_read {m : Memory} (h : m.wf) : m = Memory.ofFn m.read :=
  wf_ext h (ofFn_wf _) fun a ha => by rw [read_ofFn_of_lt _ ha]

/-- Whole-frame writes that agree on the frame buffer are equal. -/
theorem ofFn_congr {f g : Nat → Byte} (h : ∀ a < 64, f a = g a) : Memory.ofFn f = Memory.ofFn g :=
  wf_ext (ofFn_wf f) (ofFn_wf g) fun a ha => by rw [read_ofFn_of_lt _ ha, read_ofFn_of_lt _ ha, h a ha]

@[simp] theorem fbByte_setFrame (f : Nat → Byte) (s : State) {a : Nat} (h : a < 64) :
    fbByte (setFrame f s) a = f a := by
  simp [fbByte, h]

@[simp] theorem fbByte_storeByte (b : Nat) (v : Byte) (s : State) {a : Nat} (h : a < 64) :
    fbByte (storeByte b v s) a = if a = b then v else fbByte s a := by
  simp [fbByte, h]

/-- A byte read depends on the frame buffer alone. -/
theorem fbByte_congr {s t : State} (h : s.fb = t.fb) (a : Nat) : fbByte s a = fbByte t a := by
  rw [fbByte, fbByte, h]

/-- The byte of a pixel lies in the frame buffer. -/
theorem pixelAddr_lt {l x : Nat} (hl : l < 16) (hx : x < 32) : pixelAddr l x < 64 := by
  unfold pixelAddr
  omega

end Sys2Proof.Machine
end

