-- ==== Sys2Proof/Laws/Ops.lean ====
section
/-! SUPPORT. One lemma for each shared operation that says what it can do: the operand checks, the pixel write, the payload
byte, the shift of the chain, and that every operation keeps the canonical form of memory. -/

namespace Sys2Proof.Machine

variable {s t : State}

/-! ### Range checks -/

theorem withPixel_eq_next {l x : Nat} (h : withPixel l x (.next t) = .next s) : l < 16 ∧ x < 32 ∧ t = s := by
  unfold withPixel at h
  split at h
  · cases h
    exact ⟨‹_ ∧ _›.1, ‹_ ∧ _›.2, rfl⟩
  · cases h

theorem withPixel_of_lt {l x : Nat} (hl : l < 16) (hx : x < 32) (k : Host.Outcome State Fault Refusal) :
    withPixel l x k = k := if_pos ⟨hl, hx⟩

theorem withPixel_of_not {l x : Nat} (h : ¬(l < 16 ∧ x < 32)) (k : Host.Outcome State Fault Refusal) :
    withPixel l x k = .fault (.outOfRange (some l) (some x)) := if_neg h

theorem withLayer_eq_next {l : Nat} (h : withLayer l (.next t) = .next s) : l < 16 ∧ t = s := by
  unfold withLayer at h
  split at h
  · cases h
    exact ⟨‹_›, rfl⟩
  · cases h

theorem withLayer_of_lt {l : Nat} (hl : l < 16) (k : Host.Outcome State Fault Refusal) : withLayer l k = k := if_pos hl

theorem withLayer_of_not {l : Nat} (hl : ¬l < 16) (k : Host.Outcome State Fault Refusal) :
    withLayer l k = .fault (.outOfRange (some l) none) := if_neg hl

theorem withColumn_eq_next {x : Nat} (h : withColumn x (.next t) = .next s) : x < 32 ∧ t = s := by
  unfold withColumn at h
  split at h
  · cases h
    exact ⟨‹_›, rfl⟩
  · cases h

theorem withColumn_of_lt {x : Nat} (hx : x < 32) (k : Host.Outcome State Fault Refusal) : withColumn x k = k := if_pos hx

theorem withColumn_of_not {x : Nat} (hx : ¬x < 32) (k : Host.Outcome State Fault Refusal) :
    withColumn x k = .fault (.outOfRange none (some x)) := if_neg hx

/-! ### Bits of a pixel write -/

/-- Exactly the addressed bit of the byte takes the new value. -/
theorem putPixel_bit (x : Nat) (on : Bool) (v : Byte) (i : Nat) (hi : i < 8) :
    (putPixel x on v).getLsbD i = if i = x % 8 then on else v.getLsbD i := by
  have hm : (pixelMask x).getLsbD i = decide (i = x % 8) := by
    simp only [pixelMask, pixelBit, BitVec.getLsbD_shiftLeft, hi, decide_true, Bool.true_and]
    by_cases h : i = x % 8
    · subst h
      simp
    · by_cases hlt : i < x % 8
      · simp [h, hlt]
      · have h0 : i - x % 8 ≠ 0 := by omega
        have h1 : (1#8).getLsbD (i - x % 8) = false := by
          rw [BitVec.getLsbD_one]
          simp [h0]
        simp [h, h1]
  unfold putPixel
  cases on
  · simp only [Bool.false_eq_true, if_false, BitVec.getLsbD_and, BitVec.getLsbD_not, hi, decide_true, hm, Bool.true_and]
    by_cases h : i = x % 8 <;> simp [h]
  · simp only [if_true, BitVec.getLsbD_or, hm]
    by_cases h : i = x % 8 <;> simp [h]

/-- The pixel write changes one byte and nothing else. -/
theorem setPixel_eq (l x : Nat) (on : Bool) (s : State) :
    setPixel l x on s = { s with fb := s.fb.write (pixelAddr l x) (putPixel x on (fbByte s (pixelAddr l x))) } := rfl

theorem fbByte_setPixel (l x : Nat) (on : Bool) (s : State) {a : Nat} (h : a < 64) :
    fbByte (setPixel l x on s) a = if a = pixelAddr l x then putPixel x on (fbByte s a) else fbByte s a := by
  rw [setPixel, fbByte_storeByte _ _ _ h]
  split
  · next he => rw [he]
  · rfl

/-! ### The LOAD protocol -/

/-- A payload byte before the 64th is staged and counted. -/
theorem payload_of_lt {v : Byte} (h : s.ldcnt.val + 1 < 64) :
    payload v s = { stageByte v s with ldcnt := ⟨s.ldcnt.val + 1, h⟩ } := dif_pos h

/-- The 64th payload byte is staged and the load commits. -/
theorem payload_of_not_lt {v : Byte} (h : ¬s.ldcnt.val + 1 < 64) : payload v s = loadCommit (stageByte v s) := dif_neg h

theorem fbByte_loadCommit {a : Nat} (h : a < 64) : fbByte (loadCommit s) a = s.stg[a] := by
  simp [fbByte, loadCommit, h]

/-- A payload byte changes only FB, STG, LDP and LDCNT. -/
theorem payload_frame (v : Byte) (s : State) :
    payload v s =
      { s with fb := (payload v s).fb, stg := (payload v s).stg, ldp := (payload v s).ldp, ldcnt := (payload v s).ldcnt } := by
  by_cases h : s.ldcnt.val + 1 < 64
  · rw [payload_of_lt h, stageByte]
  · rw [payload_of_not_lt h, loadCommit, stageByte]

/-! ### The chain -/

theorem shiftIn_stage (v : Byte) (s : State) (j : Nat) (h : j < 64) :
    (shiftIn v s).ch[j] = if j = 0 then v else s.ch[j - 1] := by
  simp [shiftIn_ch]

/-! ### Bits of a mixture, and the low byte -/

/-- Each bit of a mixture is the bit of `new` where the draw has a 1, and the bit of `old` elsewhere (70 R104). -/
theorem mixBytes_bit (draw old new : Bytes64) (j : Fin 64) {i : Nat} (hi : i < 8) :
    (mixBytes draw old new)[j.val].getLsbD i =
      if draw[j.val].getLsbD i then new[j.val].getLsbD i else old[j.val].getLsbD i := by
  simp only [mixBytes, Vector.getElem_ofFn, BitVec.getLsbD_or, BitVec.getLsbD_and, BitVec.getLsbD_not, hi]
  cases draw[j.val].getLsbD i <;> simp

theorem lowByte_eq_setWidth (w : Word) : lowByte w = w.setWidth 8 := by
  refine BitVec.eq_of_getLsbD_eq fun i hi => ?_
  simp [lowByte, hi]

/-! ### Memory keeps its canonical form -/

theorem setFrame_wf (f : Nat → Byte) (s : State) : (setFrame f s).fb.wf := ofFn_wf f

theorem storeByte_wf (a : Nat) (v : Byte) (s : State) : (storeByte a v s).fb.wf := write_wf _ _ _

theorem setPixel_wf (l x : Nat) (on : Bool) (s : State) : (setPixel l x on s).fb.wf := write_wf _ _ _

theorem loadCommit_wf (s : State) : (loadCommit s).fb.wf := by
  rw [loadCommit_fb]
  exact ofFn_wf _

theorem payload_wf (v : Byte) (h : s.fb.wf) : (payload v s).fb.wf := by
  by_cases hc : s.ldcnt.val + 1 < 64
  · rw [payload_of_lt hc]
    exact h
  · rw [payload_of_not_lt hc]
    exact loadCommit_wf _

theorem resetInput_wf (s : State) : (resetInput s).fb.wf := nil_wf

theorem powerUp_wf (s : State) : (powerUp s).fb.wf := nil_wf

end Sys2Proof.Machine
end

