-- ==== Sys2Proof/Laws/PerInstr.lean ====
section
/-! SUPPORT. A statement about every command as syntax, one lemma a constructor: the encoder writes the fixed bits of the
command's row of the opcode table (spec/30_encoding.md R43), whatever the operands. -/

namespace Sys2Proof.Laws

/-- The mask and the match of a command's row, as 30_encoding R43 prints them. -/
def rowOf : Instr → Word × Word
  | .clr => (0xFFFF, 0x1000)
  | .setpix _ _ _ _ => (0xF001, 0x2000)
  | .getpix _ _ => (0xF007, 0x3000)
  | .setrow _ _ => (0xF0FB, 0x4000)
  | .setcol _ _ => (0xFF03, 0x5000)
  | .inv => (0xFFFF, 0x6000)
  | .shr => (0xFFFF, 0x7000)
  | .shd => (0xFFFF, 0x8000)
  | .load => (0xFFFF, 0x9000)
  | .flush => (0xFFFF, 0xA000)

/-- The encoded word matches the command's own row. -/
def EncodeMatchesRow.Statement (i : Instr) : Prop := encode i &&& (rowOf i).1 = (rowOf i).2

/-- Format P (30_encoding R41): every value of the fields leaves the fixed bits of SETPIX as they are. -/
theorem formatP_fixed : ∀ (l : BitVec 4) (x : BitVec 5) (on f : Bool),
    (0x2000#16 ||| l.setWidth 16 <<< 8 ||| x.setWidth 16 <<< 3 ||| bitAt on 2 ||| bitAt f 1) &&& 0xF001#16 = 0x2000#16 := by
  decide +kernel

/-- Format G. -/
theorem formatG_fixed : ∀ (l : BitVec 4) (x : BitVec 5),
    (0x3000#16 ||| l.setWidth 16 <<< 8 ||| x.setWidth 16 <<< 3) &&& 0xF007#16 = 0x3000#16 := by
  decide +kernel

/-- Format W. -/
theorem formatW_fixed : ∀ (l : BitVec 4) (on : Bool),
    (0x4000#16 ||| l.setWidth 16 <<< 8 ||| bitAt on 2) &&& 0xF0FB#16 = 0x4000#16 := by
  decide +kernel

/-- Format C. -/
theorem formatC_fixed : ∀ (x : BitVec 5) (on : Bool),
    (0x5000#16 ||| x.setWidth 16 <<< 3 ||| bitAt on 2) &&& 0xFF03#16 = 0x5000#16 := by
  decide +kernel

theorem EncodeMatchesRow.clr : EncodeMatchesRow.Statement .clr := rfl

theorem EncodeMatchesRow.setpix (l x : Nat) (on f : Bool) : EncodeMatchesRow.Statement (.setpix l x on f) :=
  formatP_fixed (BitVec.ofNat 4 l) (BitVec.ofNat 5 x) on f

theorem EncodeMatchesRow.getpix (l x : Nat) : EncodeMatchesRow.Statement (.getpix l x) :=
  formatG_fixed (BitVec.ofNat 4 l) (BitVec.ofNat 5 x)

theorem EncodeMatchesRow.setrow (l : Nat) (on : Bool) : EncodeMatchesRow.Statement (.setrow l on) :=
  formatW_fixed (BitVec.ofNat 4 l) on

theorem EncodeMatchesRow.setcol (x : Nat) (on : Bool) : EncodeMatchesRow.Statement (.setcol x on) :=
  formatC_fixed (BitVec.ofNat 5 x) on

theorem EncodeMatchesRow.inv : EncodeMatchesRow.Statement .inv := rfl

theorem EncodeMatchesRow.shr : EncodeMatchesRow.Statement .shr := rfl

theorem EncodeMatchesRow.shd : EncodeMatchesRow.Statement .shd := rfl

theorem EncodeMatchesRow.load : EncodeMatchesRow.Statement .load := rfl

theorem EncodeMatchesRow.flush : EncodeMatchesRow.Statement .flush := rfl

end Sys2Proof.Laws
end

