-- ==== Sys2Proof/Laws/Step.lean ====
section
/-! SUPPORT. What a command, a CMD write, an input and a step can do: one inversion lemma each, which proofs cite instead of
unfolding the machine. -/

namespace Sys2Proof.Machine

variable {s t : State}

/-- A command that answers a next state did one of these things. -/
theorem exec_next_cases {i : Instr} (h : exec i s = .next t) :
    (∃ f, t = setFrame f s) ∨
    (∃ l x on, l < 16 ∧ x < 32 ∧ (t = setPixel l x on s ∨ t = flushStart (setPixel l x on s))) ∨
    (∃ b, t = recordPixel b s) ∨ t = loadStart s ∨ t = flushStart s := by
  cases i with
  | clr => cases h; exact .inl ⟨_, rfl⟩
  | setpix l x on f =>
    obtain ⟨hl, hx, rfl⟩ := withPixel_eq_next h
    refine .inr (.inl ⟨l, x, on, hl, hx, ?_⟩)
    cases f
    · exact .inl rfl
    · exact .inr rfl
  | getpix l x =>
    obtain ⟨-, -, rfl⟩ := withPixel_eq_next h
    exact .inr (.inr (.inl ⟨_, rfl⟩))
  | setrow l on =>
    obtain ⟨-, rfl⟩ := withLayer_eq_next h
    exact .inl ⟨_, rfl⟩
  | setcol x on =>
    obtain ⟨-, rfl⟩ := withColumn_eq_next h
    exact .inl ⟨_, rfl⟩
  | inv => cases h; exact .inl ⟨_, rfl⟩
  | shr => cases h; exact .inl ⟨_, rfl⟩
  | shd => cases h; exact .inl ⟨_, rfl⟩
  | load => cases h; exact .inr (.inr (.inr (.inl rfl)))
  | flush => cases h; exact .inr (.inr (.inr (.inr rfl)))

/-- A CMD write that does not hold raises IllegalCommand or executes the decoded command, after the abandonment of a pending
LOAD. -/
theorem cmdWrite_cases (w : Word) (s : State) :
    (∃ i, decode w = .legal i ∧ cmdWrite w s = exec i (atDecode s)) ∨
    (decode w = .illegal w ∧ cmdWrite w s = .next (raiseError .illegalCommand (atDecode s))) := by
  unfold cmdWrite atDecode
  cases hd : decode w with
  | legal i => exact .inl ⟨i, rfl, by simp⟩
  | illegal v =>
    have : v = w := by
      unfold decode at hd
      split at hd
      · cases hd
      · cases hd
        rfl
    subst this
    exact .inr ⟨rfl, by simp⟩

/-- A write issued by the host is taken, or it holds. -/
theorem issueWrite_cases (p : PortWrite) (s : State) :
    (s.ser = .idle ∧ issueWrite p s = takeWrite p s) ∨ (s.ser ≠ .idle ∧ issueWrite p s = .next (park p s)) := by
  unfold issueWrite
  by_cases h : s.ser = .idle
  · exact .inl ⟨h, if_pos h⟩
  · exact .inr ⟨h, if_neg h⟩

/-- The retry of a held write takes it where SER = IDLE, and changes nothing otherwise. -/
theorem retryHeld_cases (s : State) :
    (∃ p, s.held = some p ∧ s.ser = .idle ∧ retryHeld s = takeWrite p { s with held := none }) ∨
    ((s.held = none ∨ s.ser ≠ .idle) ∧ retryHeld s = .next s) := by
  unfold retryHeld
  cases hh : s.held with
  | none => exact .inr ⟨.inl rfl, rfl⟩
  | some p =>
    by_cases hs : s.ser = .idle
    · exact .inl ⟨p, rfl, hs, by simp [hs]⟩
    · exact .inr ⟨.inr hs, by simp [hs]⟩

/-- With no write held the host may make every access. -/
theorem mayIssue_of_free {a : Access} (h : s.held = none) : mayIssue a s = true := by
  simp [mayIssue, h]

/-- While a write holds the host may make the accesses that never hold. -/
theorem mayIssue_of_neverHolds {a : Access} (hs : s.ser ≠ .idle) (h : a.neverHolds = true) : mayIssue a s = true := by
  unfold mayIssue
  cases s.held <;> simp [hs, h]

/-- While a write holds the host may make no access that can hold. -/
theorem free_of_mayIssue {a : Access} (h : mayIssue a s = true) (hn : a.neverHolds = false) : s.held = none := by
  unfold mayIssue at h
  cases hh : s.held with
  | none => rfl
  | some p => simp [hh, hn] at h

/-- A held write that may proceed goes before every access of the host. -/
theorem not_mayIssue_of_held {a : Access} {p : PortWrite} (hh : s.held = some p) (hs : s.ser = .idle ∨ a.neverHolds = false) :
    mayIssue a s = false := by
  rcases hs with hs | hs <;> simp [mayIssue, hh, hs]

theorem hostAccess_of_mayIssue {a : Access} (h : mayIssue a s = true) : hostAccess a s = performAccess a s := if_pos h

theorem hostAccess_of_not_mayIssue {a : Access} (h : mayIssue a s = false) : hostAccess a s = .next s := by
  simp [hostAccess, h]

/-- A step with no input changes nothing; with one, it takes the first. -/
theorem step_cases (s : State) :
    (s.inputs = [] ∧ step s = .next s) ∨
    ∃ e rest, s.inputs = e :: rest ∧ step s = takeInput e { s with inputs := rest } := by
  unfold step
  cases hi : s.inputs with
  | nil => exact .inl ⟨rfl, rfl⟩
  | cons e rest => exact .inr ⟨e, rest, rfl, rfl⟩

theorem step_cons {e : Input} {rest : List Input} (h : s.inputs = e :: rest) :
    step s = takeInput e { s with inputs := rest } := by
  unfold step
  rw [h]

/-- A step in which the host makes an access that it may make. -/
theorem step_host {a : Access} {rest : List Input} (hi : s.inputs = .host a :: rest) (h : mayIssue a s = true) :
    step s = performAccess a { s with inputs := rest } :=
  (step_cons hi).trans (hostAccess_of_mayIssue h)

/-- A step with an access that the host may not make. -/
theorem step_host_not_enabled {a : Access} {rest : List Input} (hi : s.inputs = .host a :: rest)
    (h : mayIssue a s = false) : step s = .next { s with inputs := rest } :=
  (step_cons hi).trans (hostAccess_of_not_mayIssue h)

/-- The accesses that never hold are enabled with no write held, and while one holds. -/
theorem mayIssue_neverHolds {a : Access} (hn : a.neverHolds = true) (h : s.held = none ∨ s.ser ≠ .idle) :
    mayIssue a s = true :=
  h.elim mayIssue_of_free (mayIssue_of_neverHolds · hn)

/-! ### What one input can do -/

/-- The input by which the host issues a CMD or DATA write. -/
def issued : PortWrite → Input
  | .cmd w => .host (.write 0 w)
  | .data w => .host (.write 1 w)

/-- The input `e` makes the state `s` take the write `p`, in the state `u`: the host issues it, or it is the held one. -/
def TakesWrite (e : Input) (s : State) (p : PortWrite) (u : State) : Prop :=
  s.ser = .idle ∧
    ((s.held = none ∧ u = s ∧ e = issued p) ∨ (e = .heldWrite ∧ s.held = some p ∧ u = { s with held := none }))

/-- Taking a write touches no field but the held write. -/
theorem TakesWrite.state_eq {e : Input} {s u : State} {p : PortWrite} (h : TakesWrite e s p u) :
    u = { s with held := u.held } := by
  obtain ⟨-, ⟨-, rfl, -⟩ | ⟨-, -, rfl⟩⟩ := h <;> rfl

/-- Everything that one input can do to a state: the inversion of `takeInput`. -/
inductive InputEffect (e : Input) (s t : State) : Prop where
  /-- A write is taken, its word is legal, and the command executes. -/
  | command (w : Word) (i : Instr) (u : State) (taken : TakesWrite e s (.cmd w) u) (decoded : decode w = .legal i)
      (runs : exec i (atDecode u) = .next t)
  /-- A write is taken and its word is illegal. -/
  | illegalWord (w : Word) (u : State) (taken : TakesWrite e s (.cmd w) u) (decoded : decode w = .illegal w)
      (result : t = raiseError .illegalCommand (atDecode u))
  /-- A DATA write is taken. -/
  | data (w : Word) (u : State) (taken : TakesWrite e s (.data w) u) (result : t = dataWrite w u)
  /-- A CMD or DATA write holds. -/
  | holds (p : PortWrite) (free : s.held = none) (busy : s.ser ≠ .idle) (input : e = issued p) (result : t = park p s)
  /-- The host may not make the access. -/
  | notEnabled (a : Access) (input : e = .host a) (guard : mayIssue a s = false) (result : t = s)
  /-- A register is read. -/
  | reads (addr : BitVec 2) (input : e = .host (.read addr)) (result : t = answer (readReg s (Reg.ofAddr addr)) s)
  /-- STATUS is written. -/
  | statusWrite (w : Word) (input : e = .host (.write 2 w)) (result : t = clearError s)
  /-- BRIGHT is written. -/
  | brightWrite (w : Word) (input : e = .host (.write 3 w)) (result : t = setBright (lowByte w) s)
  /-- The held write still holds, or there is none. -/
  | stillHeld (input : e = .heldWrite) (guard : s.held = none ∨ s.ser ≠ .idle) (result : t = s)
  /-- A byte is sent. -/
  | sends (k : Fin 64) (input : e = .txDone) (guard : s.ser = .xmit k) (result : t = sendByte k s)
  /-- The Bus gives up on a byte. -/
  | aborts (k : Fin 64) (input : e = .txTimeout) (guard : s.ser = .xmit k) (enabled : s.txTimeout ≠ none)
      (result : t = abortFlush s)
  /-- The latch pulse ends. -/
  | latches (input : e = .strobeEnd) (guard : s.ser = .strobe) (result : t = latch s)
  /-- An event of the Bus or the Strobe whose guard fails. -/
  | passedOver (input : e = .txDone ∨ e = .txTimeout ∨ e = .strobeEnd) (result : t = s)
  /-- Reset. -/
  | resets (input : e = .reset) (result : t = resetInput s)
  /-- A power cycle. -/
  | powersUp (input : e = .powerUp) (result : t = powerUp s)

theorem cmdWrite_effect {e : Input} {w : Word} {s u t : State} (taken : TakesWrite e s (.cmd w) u)
    (h : cmdWrite w u = .next t) : InputEffect e s t := by
  rcases cmdWrite_cases w u with ⟨i, hd, hx⟩ | ⟨hd, hx⟩
  · exact .command w i u taken hd (hx.symm.trans h)
  · rw [h] at hx
    cases hx
    exact .illegalWord w u taken hd rfl

theorem issueWrite_effect {p : PortWrite} {s t : State} (hf : s.held = none) (h : issueWrite p s = .next t) :
    InputEffect (issued p) s t := by
  rcases issueWrite_cases p s with ⟨hs, hx⟩ | ⟨hn, hx⟩
  · have taken : TakesWrite (issued p) s p s := ⟨hs, .inl ⟨hf, rfl, rfl⟩⟩
    rw [h] at hx
    cases p with
    | cmd w => exact cmdWrite_effect taken hx.symm
    | data w =>
      cases hx
      exact .data w s taken rfl
  · rw [h] at hx
    cases hx
    exact .holds p hf hn rfl rfl

theorem retryHeld_effect {s t : State} (h : retryHeld s = .next t) : InputEffect .heldWrite s t := by
  rcases retryHeld_cases s with ⟨p, hh, hs, hx⟩ | ⟨hg, hx⟩
  · have taken : TakesWrite .heldWrite s p { s with held := none } := ⟨hs, .inr ⟨rfl, hh, rfl⟩⟩
    rw [h] at hx
    cases p with
    | cmd w => exact cmdWrite_effect taken hx.symm
    | data w =>
      cases hx
      exact .data w _ taken rfl
  · rw [h] at hx
    cases hx
    exact .stillHeld rfl hg rfl

/-- Each 2-bit address selects its register (10_state R23). -/
theorem ofAddr_cases (a : BitVec 2) :
    (a = 0 ∧ Reg.ofAddr a = .cmd) ∨ (a = 1 ∧ Reg.ofAddr a = .data) ∨ (a = 2 ∧ Reg.ofAddr a = .status) ∨
      (a = 3 ∧ Reg.ofAddr a = .bright) := by
  revert a
  decide

theorem performAccess_effect {a : Access} {s t : State} (hm : mayIssue a s = true) (h : performAccess a s = .next t) :
    InputEffect (.host a) s t := by
  cases a with
  | read addr =>
    cases h
    exact .reads addr rfl rfl
  | write addr w =>
    change hostWrite (Reg.ofAddr addr) w s = .next t at h
    rcases ofAddr_cases addr with ⟨rfl, ha⟩ | ⟨rfl, ha⟩ | ⟨rfl, ha⟩ | ⟨rfl, ha⟩ <;> rw [ha] at h
    · exact issueWrite_effect (free_of_mayIssue hm rfl) h
    · exact issueWrite_effect (free_of_mayIssue hm rfl) h
    · cases h
      exact .statusWrite w rfl rfl
    · cases h
      exact .brightWrite w rfl rfl

theorem hostAccess_effect {a : Access} {s t : State} (h : hostAccess a s = .next t) : InputEffect (.host a) s t := by
  cases hm : mayIssue a s with
  | true => exact performAccess_effect hm (by rwa [hostAccess_of_mayIssue hm] at h)
  | false =>
    rw [hostAccess_of_not_mayIssue hm] at h
    cases h
    exact .notEnabled a rfl hm rfl

/-- The inversion lemma of the machine: what an input that answers a next state did. -/
theorem takeInput_effect {e : Input} {s t : State} (h : takeInput e s = .next t) : InputEffect e s t := by
  cases e with
  | host a => exact hostAccess_effect h
  | heldWrite => exact retryHeld_effect h
  | txDone =>
    cases h
    cases hs : s.ser with
    | xmit k => exact .sends k rfl hs (by simp [busTxDone, hs])
    | idle => exact .passedOver (.inl rfl) (by simp [busTxDone, hs])
    | strobe => exact .passedOver (.inl rfl) (by simp [busTxDone, hs])
  | txTimeout =>
    cases h
    cases ht : s.txTimeout with
    | none => exact .passedOver (.inr (.inl rfl)) (by simp [busTxTimeout, ht])
    | some n =>
      cases hs : s.ser with
      | xmit k => exact .aborts k rfl hs (by simp [ht]) (by simp [busTxTimeout, hs, ht])
      | idle => exact .passedOver (.inr (.inl rfl)) (by simp [busTxTimeout, hs, ht])
      | strobe => exact .passedOver (.inr (.inl rfl)) (by simp [busTxTimeout, hs, ht])
  | strobeEnd =>
    cases h
    cases hs : s.ser with
    | strobe => exact .latches rfl hs (by simp [strobeStep, hs])
    | idle => exact .passedOver (.inr (.inr rfl)) (by simp [strobeStep, hs])
    | xmit k => exact .passedOver (.inr (.inr rfl)) (by simp [strobeStep, hs])
  | reset =>
    cases h
    exact .resets rfl rfl
  | powerUp =>
    cases h
    exact .powersUp rfl rfl

/-- The inversion lemma of the step. -/
theorem step_effect {s t : State} (h : step s = .next t) :
    (s.inputs = [] ∧ t = s) ∨ ∃ e rest, s.inputs = e :: rest ∧ InputEffect e { s with inputs := rest } t := by
  rcases step_cases s with ⟨hi, hx⟩ | ⟨e, rest, hi, hx⟩
  · rw [h] at hx
    cases hx
    exact .inl ⟨hi, rfl⟩
  · rw [h] at hx
    exact .inr ⟨e, rest, hi, takeInput_effect hx.symm⟩

/-! ### Which write a step takes -/

/-- The write that an input makes the state take is the one `writeTaken` names. -/
theorem TakesWrite.writeTaken_eq {e : Input} {rest : List Input} {p : PortWrite} {u : State} (hi : s.inputs = e :: rest)
    (h : TakesWrite e { s with inputs := rest } p u) : writeTaken s = some p := by
  obtain ⟨hs, ⟨hh, -, rfl⟩ | ⟨rfl, hh, -⟩⟩ := h
  · cases p with
    | cmd w =>
      simp only [writeTaken, show s.inputs = .host (.write 0 w) :: rest from hi]
      exact if_pos ⟨hs, hh⟩
    | data w =>
      simp only [writeTaken, show s.inputs = .host (.write 1 w) :: rest from hi]
      exact if_pos ⟨hs, hh⟩
  · simp only [writeTaken, hi, show s.ser = .idle from hs, show s.held = some p from hh]
    rfl

/-- A write that holds, or that the host may not issue, is not taken. -/
theorem writeTaken_of_not_free {a : Access} {rest : List Input} (hi : s.inputs = .host a :: rest)
    (h : ¬(s.ser = .idle ∧ s.held = none)) : writeTaken s = none := by
  cases a with
  | read addr => simp [writeTaken, hi]
  | write addr w => simp [writeTaken, hi, h]

/-- No command makes a draw. -/
theorem exec_draws {i : Instr} (h : exec i s = .next t) : t.draws = s.draws := by
  rcases exec_next_cases h with ⟨f, rfl⟩ | ⟨l, x, on, -, -, rfl | rfl⟩ | ⟨b, rfl⟩ | rfl | rfl <;> rfl

/-! ### The state at decoding, and a DATA write -/

@[simp] theorem atDecode_ldp (s : State) : (atDecode s).ldp = false := by
  unfold atDecode
  cases h : s.ldp <;> simp [h]

/-- Abandonment touches LDP, LDCNT and ERR only. -/
theorem atDecode_frame (s : State) :
    atDecode s = { s with ldp := (atDecode s).ldp, ldcnt := (atDecode s).ldcnt, err := (atDecode s).err } := by
  unfold atDecode
  cases h : s.ldp <;> simp [loadAbandon, raiseError]

/-- With no LOAD pending nothing is abandoned. -/
theorem atDecode_of_not_ldp {s : State} (h : s.ldp = false) : atDecode s = s := by
  simp [atDecode, h]

/-- A DATA write touches FB, STG, LDP, LDCNT and ERR only. -/
theorem dataWrite_frame (w : Word) (s : State) :
    dataWrite w s =
      { s with
        fb := (dataWrite w s).fb, stg := (dataWrite w s).stg, ldp := (dataWrite w s).ldp,
        ldcnt := (dataWrite w s).ldcnt, err := (dataWrite w s).err } := by
  unfold dataWrite
  split
  · rw [payload_frame]
  · rfl

theorem dataWrite_of_ldp {w : Word} {s : State} (h : s.ldp = true) : dataWrite w s = payload (lowByte w) s := if_pos h

theorem dataWrite_of_not_ldp {w : Word} {s : State} (h : s.ldp = false) :
    dataWrite w s = raiseError .strayData s := by
  simp [dataWrite, h]

/-- Bit i of a row's value is bit i % 8 of its byte i / 8 (20_memory R28). -/
theorem rowval_getLsbD (s : State) (l : Nat) {i : Nat} (h : i < 32) :
    (rowval s l).getLsbD i = (fbByte s (4 * l + i / 8)).getLsbD (i % 8) := by
  unfold rowval
  simp only [BitVec.getLsbD_append]
  interval_cases i <;> simp

end Sys2Proof.Machine
end

