-- ==== Sys2Proof/Laws/Run.lean ====
section
/-! SUPPORT. Runs of several steps, one step at a time. -/

namespace Sys2Proof.Machine

@[simp] theorem runSteps_zero (s : State) : runSteps 0 s = .next s := rfl

/-- A run whose first step is known. -/
theorem runSteps_succ {s t : State} (n : Nat) (h : step s = .next t) : runSteps (n + 1) s = runSteps n t := by
  simp [runSteps, h]

/-- A run of `m + n` steps whose first `m` lead to `t` goes on from `t`. -/
theorem runSteps_add {s t : State} (m n : Nat) (h : runSteps m s = .next t) :
    runSteps (m + n) s = runSteps n t := by
  induction m generalizing s with
  | zero =>
    cases h
    rw [Nat.zero_add]
  | succ m ih =>
    rw [Nat.succ_add, runSteps]
    rw [runSteps] at h
    cases hs : step s with
    | next u =>
      rw [hs] at h
      exact ih h
    | fault r =>
      rw [hs] at h
      cases h
    | refused r =>
      rw [hs] at h
      cases h

/-- The runs of the model are the runs of the host's interface. -/
theorem core_run_eq_runSteps (n : Nat) : ∀ s : State, Host.Core.run Sys2Proof.core n s = runSteps n s := by
  induction n with
  | zero => exact fun _ => rfl
  | succ n ih =>
    intro s
    refine (Host.Core.run.eq_2 Sys2Proof.core s n).trans ?_
    cases hs : step s with
    | next u =>
      have h' : Sys2Proof.core.step s = .next u := hs
      simp only [h']
      exact (ih u).trans (runSteps_succ n hs).symm
    | fault r =>
      have h' : Sys2Proof.core.step s = .fault r := hs
      have hr : runSteps (n + 1) s = .fault r := by simp [runSteps, hs]
      rw [h', hr]
      rfl
    | refused r =>
      have h' : Sys2Proof.core.step s = .refused r := hs
      have hr : runSteps (n + 1) s = .refused r := by simp [runSteps, hs]
      rw [h', hr]
      rfl

end Sys2Proof.Machine
end

