-- ==== Sys2Proof/Tests/Slice0.lean ====
section
/-! SUPPORT. Tests. Expected words and values are those of spec/95_test_vectors.md or worked by hand from the rule named; none
is the model's own answer. After them, one witness for each obligation with hypotheses: a concrete state and operands that meet
them, one for each clause. -/

namespace Sys2Proof.Tests

open Sys2Proof.Machine

/-! ### Helpers -/

/-- Bytes 0, 1, 2, ... -/
def pattern : Bytes64 := Vector.ofFn fun j => BitVec.ofNat 8 j.val

def zeros : Bytes64 := Vector.replicate 64 0

/-- The state after reset with concrete chain and staging bytes. -/
def base : State := { State.reset with stg := pattern, ch := zeros, out := pattern }

/-- `base` with one frame-buffer byte. -/
def withByte (a : Nat) (v : Byte) : State := { base with fb := [(a, v)] }

/-- The state an outcome goes on from, none for a stop. -/
def stateOf : Host.Outcome State Fault Refusal → Option State
  | .next s => some s
  | .fault _ => none
  | .refused _ => none

/-- The four bytes of a row. -/
def row (s : State) (l : Nat) : List Byte := (List.range 4).map fun b => fbByte s (4 * l + b)

/-- The row l after a command. -/
def rowAfter (i : Instr) (s : State) (l : Nat) : Option (List Byte) := (stateOf (exec i s)).map (row · l)

/-- The state with these inputs, after one step. -/
def afterStep (s : State) (e : Input) : Option State := stateOf (step { s with inputs := [e] })

/-! ### WellFormed: an ill-formed term for each check -/

theorem test_illFormed_setpix_layer : (Instr.setpix 16 0 true true).wellFormed = false := by decide
theorem test_illFormed_setpix_x : (Instr.setpix 0 32 true true).wellFormed = false := by decide
theorem test_illFormed_getpix_layer : (Instr.getpix 16 0).wellFormed = false := by decide
theorem test_illFormed_getpix_x : (Instr.getpix 0 32).wellFormed = false := by decide
theorem test_illFormed_setrow_layer : (Instr.setrow 16 true).wellFormed = false := by decide
theorem test_illFormed_setcol_x : (Instr.setcol 32 true).wellFormed = false := by decide
theorem test_wellFormed_bounds :
    (Instr.setpix 15 31 false false).wellFormed = true ∧ (Instr.setrow 15 false).wellFormed = true := by decide

/-! ### Decoding: words written out bit by bit from 30_encoding R41, R43 (V-E2 to V-E13) -/

theorem test_decode_clr : decode 0b0001000000000000 = .legal .clr := by decide
theorem test_decode_setpix : decode 0b0010_0011_01010_1_1_0 = .legal (.setpix 3 10 true true) := by decide
theorem test_decode_setpix_off : decode 0b0010_0010_10001_0_0_0 = .legal (.setpix 2 17 false false) := by decide
theorem test_decode_getpix : decode 0b0011_1111_11111_000 = .legal (.getpix 15 31) := by decide
theorem test_decode_setrow : decode 0b0100_0101_00000_1_00 = .legal (.setrow 5 true) := by decide
theorem test_decode_setcol : decode 0b0101_0000_00111_1_00 = .legal (.setcol 7 true) := by decide
theorem test_decode_inv : decode 0b0110000000000000 = .legal .inv := by decide
theorem test_decode_shr : decode 0b0111000000000000 = .legal .shr := by decide
theorem test_decode_shd : decode 0b1000000000000000 = .legal .shd := by decide
theorem test_decode_load : decode 0b1001000000000000 = .legal .load := by decide
theorem test_decode_flush : decode 0b1010000000000000 = .legal .flush := by decide

/-- V-E7 to V-E12: reserved OP values and reserved bits. -/
theorem test_decode_illegal :
    ([0x0000, 0xFFFF, 0xB000, 0xF000, 0x1001, 0x6800, 0xA001, 0x2001, 0x3002, 0x3004, 0x3354, 0x4002, 0x4008, 0x5002,
      0x5100] : List Word).all (fun w => decode w == .illegal w) = true := by decide

/-- V-E2 to V-E5, the assembler's words. -/
theorem test_encode_words :
    encode (.setpix 15 31 false true) = 0x2FFA ∧ encode (.getpix 3 10) = 0x3350 ∧ encode (.setrow 15 false) = 0x4F00 ∧
      encode (.setcol 31 false) = 0x50F8 := by decide

theorem test_tableWords :
    decodeTableWord 16 0x2354 = some (.setpix 3 10 true false) ∧ decodeTableWord 16 0x50F8 = some (.setcol 31 false) ∧
      decodeTableWord 16 0x1001 = none := by decide

/-! ### Commands -/

/-- V-CLR1. -/
theorem test_clr : rowAfter .clr (withByte 29 0x5A) 7 = some [0, 0, 0, 0] := by decide
/-- V-SP1. -/
theorem test_setpix : rowAfter (.setpix 3 10 true false) base 3 = some [0, 4, 0, 0] := by decide
/-- V-SP6: with F = 1, STATUS = 0x0001. -/
theorem test_setpix_flush :
    (stateOf (exec (.setpix 3 10 true true) base)).map (fun t => (row t 3, statusWord t)) =
      some ([0, 4, 0, 0], 0x0001) := by decide
/-- V-GP1. -/
theorem test_getpix_clear_bit :
    (stateOf (exec (.getpix 3 10) (withByte 13 0xFB))).map (fun t => (t.pix, fbByte t 13)) = some (false, 0xFB) := by decide
/-- V-GP2. -/
theorem test_getpix_set_bit :
    (stateOf (exec (.getpix 3 10) (withByte 13 0xFF))).map (fun t => (statusWord t, fbByte t 13)) =
      some (0x0002, 0xFF) := by decide
/-- V-SR1. -/
theorem test_setrow : rowAfter (.setrow 5 true) base 5 = some [0xFF, 0xFF, 0xFF, 0xFF] := by decide
/-- V-SC4. -/
theorem test_setcol : rowAfter (.setcol 31 true) base 15 = some [0, 0, 0, 0x80] := by decide
/-- V-INV1. -/
theorem test_inv : rowAfter .inv (withByte 0 0x0F) 0 = some [0xF0, 0xFF, 0xFF, 0xFF] := by decide
/-- V-SHR1. -/
theorem test_shr :
    rowAfter .shr { base with fb := [(0, 0x78), (1, 0x56), (2, 0x34), (3, 0x12)] } 0 = some [0x3C, 0x2B, 0x1A, 0x09] := by
  decide +kernel
/-- V-SHR2. -/
theorem test_shr_wraps : rowAfter .shr (withByte 0 0x01) 0 = some [0, 0, 0, 0x80] := by decide +kernel
/-- V-SHD2. -/
theorem test_shd_row15_to_row0 :
    rowAfter .shd { base with fb := [(60, 0xDE), (61, 0xAD), (62, 0xBE), (63, 0xEF)] } 0 =
      some [0xDE, 0xAD, 0xBE, 0xEF] := by decide
/-- R62: LDP = 1, LDCNT = 0, whatever LDCNT was. -/
theorem test_load : (stateOf (exec .load { base with ldcnt := 7 })).map statusWord = some 0x0004 := by decide
/-- R67. -/
theorem test_flush : (stateOf (exec .flush base)).map (fun t => (t.ser, statusWord t)) = some (.xmit 0, 0x0001) := by decide
/-- R11: an index out of range faults. -/
theorem test_outOfRange_stops : stateOf (exec (.setpix 16 0 true false) base) = none := by decide

/-! ### Host accesses and events -/

/-- V-H4: an illegal word. -/
theorem test_illegalCommand : (afterStep base (.host (.write 0 0x0000))).map statusWord = some 0x0008 := by decide
/-- V-H6: a stray DATA write. -/
theorem test_strayData : (afterStep base (.host (.write 1 0x55))).map statusWord = some 0x0010 := by decide
/-- V-LD6: LoadAbandoned goes before IllegalCommand. -/
theorem test_abandon_before_illegal :
    (afterStep { base with ldp := true } (.host (.write 0 0x2001))).map statusWord = some 0x0018 := by decide
/-- V-LD4: FLUSH abandons a pending LOAD. -/
theorem test_flush_abandons_load :
    (afterStep { base with ldp := true, ldcnt := 63 } (.host (.write 0 0xA000))).map statusWord = some 0x0019 := by decide
/-- V-LD3: STATUS while 63 payload bytes are staged. -/
theorem test_status_word : statusWord { base with ldp := true, ldcnt := 63 } = 0x0FC4 := by decide
/-- V-LD10: wdata[15:8] of a DATA write is ignored. -/
theorem test_data_low_byte :
    (afterStep { base with ldp := true } (.host (.write 1 0x1234))).map (fun t => (t.stg[0], t.ldcnt)) =
      some (0x34, 1) := by decide
/-- R64: the 64th byte commits. -/
theorem test_load_commit :
    (afterStep { base with ldp := true, ldcnt := 63 } (.host (.write 1 0xAA))).map
      (fun t => (row t 15, t.ldp, t.ldcnt)) = some ([60, 61, 62, 0xAA], false, 0) := by decide +kernel
/-- V-SP7: a CMD write holds in XMIT(5). -/
theorem test_write_holds :
    (afterStep { base with ser := .xmit 5 } (.host (.write 0 0x1000))).map (·.held) = some (some (.cmd 0x1000)) := by decide
/-- P4, step 4: a STATUS read is answered while CLR is held. -/
theorem test_read_during_hold :
    (afterStep { base with ser := .xmit 0, held := some (.cmd 0x1000) } (.host (.read 2))).map (fun t => (t.rdata, t.held)) =
      some ([0x0001], some (.cmd 0x1000)) := by decide
/-- V-FL4; P4, step 8: after the pulse the held CLR completes. -/
theorem test_heldWrite_completes :
    (afterStep { withByte 13 4 with held := some (.cmd 0x1000) } .heldWrite).map (fun t => (row t 3, t.held)) =
      some ([0, 0, 0, 0], none) := by decide
/-- P4, steps 7 to 9: a read does not go before the held CLR. -/
theorem test_held_goes_first :
    (afterStep { base with held := some (.cmd 0x1000) } (.host (.read 2))).map (·.rdata) = some [] := by decide
/-- R69: the last byte raises the strobe, and the byte is FB[15][3]. -/
theorem test_txDone_last :
    (afterStep { withByte 63 0x80 with ser := .xmit 63 } .txDone).map (fun t => (t.ser, t.ch[0], t.tx)) =
      some (.strobe, 0x80, [0x80]) := by decide
/-- R72. -/
theorem test_strobeEnd :
    (afterStep { base with ser := .strobe } .strobeEnd).map (fun t => (t.ser, t.out[63])) = some (.idle, 0) := by decide
/-- V-FL7: STATUS = 0x0020, OUT unchanged. -/
theorem test_txTimeout :
    (afterStep { base with ser := .xmit 3, txTimeout := some 1 } .txTimeout).map (fun t => (statusWord t, t.out[5])) =
      some (0x0020, 5) := by decide
/-- V-H2: BRIGHT takes the low byte. -/
theorem test_bright_write : (afterStep base (.host (.write 3 0x1234))).map (·.bright) = some 0x34 := by decide
/-- V-H1: a BRIGHT read after reset. -/
theorem test_bright_read : (afterStep State.reset (.host (.read 3))).map (·.rdata) = some [0x00FF] := by decide
/-- V-H3: a STATUS write clears ERR and keeps PIX. -/
theorem test_status_write :
    (afterStep { base with err := .illegalCommand, pix := true } (.host (.write 2 0xFFFF))).map statusWord =
      some 0x0002 := by decide
/-- V-R4: reset of a pending LOAD raises nothing. -/
theorem test_reset : (afterStep { withByte 3 9 with ldp := true, ldcnt := 40 } .reset).map
    (fun t => (statusWord t, t.bright, row t 0)) = some (0x0000, 0xFF, [0, 0, 0, 0]) := by decide

/-- A word of the table runs as the first instruction after reset. -/
theorem test_withFetchWord :
    (stateOf (step (State.reset.withFetchWord 16 0x2354))).map (row · 3) = some [0, 4, 0, 0] := by decide

/-! ### Witnesses for the hypotheses of the obligations -/

/-- `base` about to take one input. -/
def about (e : Input) : State := { base with inputs := [e] }

theorem base_inv : Inv base := ⟨by decide, fun _ => rfl, (fun h => nomatch h), trivial⟩

theorem witness_DecodeOfEncode : ∃ i : Instr, i.wellFormed = true := ⟨.setpix 15 31 true true, by decide⟩

theorem witness_EncodeOfDecode : ∃ (w : Word) (i : Instr), decode w = .legal i := ⟨0x50FC, .setcol 31 true, by decide⟩

theorem witness_AtMostOneRow :
    (∃ (w : Word), ∃ r ∈ opcodeTable, w &&& r.mask = r.pattern) ∧
      ∃ w : Word, ∀ r ∈ opcodeTable, w &&& r.mask ≠ r.pattern :=
  ⟨⟨0xA000, _, List.mem_of_getLast? rfl, by decide⟩, 0xA001, by decide⟩

theorem witness_AssemblerOperands :
    ((15 : Nat) < 16 ∧ (31 : Nat) < 32 ∧ (1 : Nat) < 2) ∧ ¬((16 : Nat) < 16 ∧ (31 : Nat) < 32 ∧ (1 : Nat) < 2) ∧
      ¬((15 : Nat) < 16 ∧ (32 : Nat) < 32) ∧ ¬((15 : Nat) < 16 ∧ (2 : Nat) < 2) ∧ ¬((32 : Nat) < 32 ∧ (1 : Nat) < 2) := by
  decide

theorem witness_StepRuns :
    ∃ (s : State) (w v : Word), s.inputs = [.host (.write 0 w)] ∧ s.ser = .idle ∧ s.held = none ∧
      decode w = .legal .shd ∧ decode v = .illegal v :=
  ⟨about (.host (.write 0 0x8000)), 0x8000, 0xB000, by decide⟩

theorem witness_ReservedWord :
    ∃ (s : State) (w : Word), s.inputs = [.host (.write 0 w)] ∧ s.ser = .idle ∧ s.held = none ∧ s.ldp = true ∧
      s.err = .noError ∧ reservedWord w = true :=
  ⟨{ about (.host (.write 0 0xFFFF)) with ldp := true, ldcnt := 63 }, 0xFFFF, by decide⟩

theorem witness_WritesHold :
    ∃ s t u : State, s.ser ≠ .idle ∧ s.held = none ∧ s.inputs = [.host (.write 0 0x1000)] ∧ t.ser ≠ .idle ∧ t.held = none ∧
      t.inputs = [.host (.write 1 0x55)] ∧ u.ser ≠ .idle ∧ u.inputs = [.heldWrite] :=
  ⟨{ about (.host (.write 0 0x1000)) with ser := .xmit 63 }, { about (.host (.write 1 0x55)) with ser := .strobe },
    { about .heldWrite with ser := .xmit 0, held := some (.cmd 0x1000) }, by decide⟩

/-- A read with SER = IDLE and a write held, and a second CMD and DATA write during the hold. -/
theorem witness_HostWaits :
    ∃ s t u : State, s.held = some (.cmd 0x1000) ∧ s.inputs = [.host (.read 2)] ∧ s.ser = .idle ∧
      t.held = some (.data 7) ∧ t.inputs = [.host (.write 0 0xA000)] ∧ t.ser = .xmit 63 ∧
      u.held = some (.cmd 0x1000) ∧ u.inputs = [.host (.write 1 7)] ∧ u.ser = .strobe :=
  ⟨{ about (.host (.read 2)) with held := some (.cmd 0x1000) },
    { about (.host (.write 0 0xA000)) with held := some (.data 7), ser := .xmit 63 },
    { about (.host (.write 1 7)) with held := some (.cmd 0x1000), ser := .strobe }, by decide⟩

/-- A held CMD write with a LOAD pending, legal, and another one, illegal. -/
theorem witness_HeldCmd :
    ∃ s u : State, s.ser = .idle ∧ s.inputs = [.heldWrite] ∧ s.held = some (.cmd 0x1000) ∧ s.ldp = true ∧
      decode 0x1000 = .legal .clr ∧ u.ser = .idle ∧ u.inputs = [.heldWrite] ∧ u.held = some (.cmd 0xFFFF) ∧
      decode 0xFFFF = .illegal 0xFFFF :=
  ⟨{ about .heldWrite with held := some (.cmd 0x1000), ldp := true, ldcnt := 63 },
    { about .heldWrite with held := some (.cmd 0xFFFF) }, by decide⟩

/-- A held DATA write that is stray, that is the 63rd payload byte, and that is the 64th. -/
theorem witness_HeldData :
    ∃ s t u : State, ∃ n : Fin 64, s.ser = .idle ∧ s.inputs = [.heldWrite] ∧ s.held = some (.data 7) ∧ s.ldp = false ∧
      t.ser = .idle ∧ t.inputs = [.heldWrite] ∧ t.held = some (.data 7) ∧ t.ldp = true ∧ n.val = t.ldcnt.val + 1 ∧
      u.ser = .idle ∧ u.inputs = [.heldWrite] ∧ u.held = some (.data 7) ∧ u.ldp = true ∧ u.ldcnt.val = 63 :=
  ⟨{ about .heldWrite with held := some (.data 7) },
    { about .heldWrite with held := some (.data 7), ldp := true, ldcnt := 62 },
    { about .heldWrite with held := some (.data 7), ldp := true, ldcnt := 63 }, 63, by decide⟩

theorem witness_PixelOperands : (15 : Nat) < 16 ∧ (31 : Nat) < 32 := by decide

theorem witness_Periods : base.fb.wf := by decide

theorem witness_OutOfRange :
    ¬((16 : Nat) < 16 ∧ (0 : Nat) < 32) ∧ ¬((15 : Nat) < 16 ∧ (32 : Nat) < 32) ∧ ¬(16 : Nat) < 16 ∧ ¬(32 : Nat) < 32 := by
  decide

theorem witness_Payload :
    ∃ s t : State, ∃ n : Fin 64,
      s.inputs = [.host (.write 1 7)] ∧ s.ser = .idle ∧ s.held = none ∧ s.ldp = true ∧ n.val = s.ldcnt.val + 1 ∧
      t.inputs = [.host (.write 1 7)] ∧ t.ser = .idle ∧ t.held = none ∧ t.ldp = true ∧ t.ldcnt.val = 63 :=
  ⟨{ about (.host (.write 1 7)) with ldp := true, ldcnt := 62 },
    { about (.host (.write 1 7)) with ldp := true, ldcnt := 63 }, 63, by decide⟩

theorem witness_StrayData :
    ∃ (s : State) (w : Word), s.inputs = [.host (.write 1 w)] ∧ s.ser = .idle ∧ s.held = none ∧ s.ldp = false :=
  ⟨about (.host (.write 1 0x55)), 0x55, by decide⟩

theorem witness_LoadBitmap :
    ∃ s : State, s.inputs = loadBitmapInputs pattern ++ [.txDone] ∧ s.ser = .idle ∧ s.held = none ∧ s.ldp = false :=
  ⟨{ base with inputs := loadBitmapInputs pattern ++ [.txDone] }, rfl, by decide⟩

/-- A pending LOAD of the pattern with 62 bytes received that takes the next one, one with 63, and one that takes none. -/
theorem witness_PendingLoad :
    ∃ s t u s' t' u' : State, loadingPattern pattern s ∧ step s = .next s' ∧ writeTaken s = some (.data 62) ∧
      s.ldcnt.val = 62 ∧ loadingPattern pattern t ∧ step t = .next t' ∧ writeTaken t = some (.data 63) ∧
      t.ldcnt.val = 63 ∧ loadingPattern pattern u ∧ step u = .next u' ∧ writeTaken u = none ∧ u.inputs = [.host (.read 2)] :=
  ⟨{ about (.host (.write 1 62)) with ldp := true, ldcnt := 62 }, { about (.host (.write 1 63)) with ldp := true, ldcnt := 63 },
    { about (.host (.read 2)) with ldp := true, ldcnt := 63 }, _, _, _, ⟨rfl, fun _ _ => rfl⟩, rfl, by decide, rfl,
    ⟨rfl, fun _ _ => rfl⟩, rfl, by decide, rfl, ⟨rfl, fun _ _ => rfl⟩, rfl, by decide, rfl⟩

theorem witness_TxDone :
    ∃ s t : State, s.inputs = [.txDone] ∧ s.ser = .xmit 0 ∧ t.inputs = [.txDone] ∧ t.ser = .xmit 63 ∧
      (1 : Fin 64).val = (0 : Fin 64).val + 1 ∧ (63 : Fin 64).val = 63 :=
  ⟨{ about .txDone with ser := .xmit 0 }, { about .txDone with ser := .xmit 63 }, by decide⟩

theorem witness_StrobeEnd : ∃ s : State, s.inputs = [.strobeEnd] ∧ s.ser = .strobe :=
  ⟨{ about .strobeEnd with ser := .strobe }, by decide⟩

theorem witness_TxTimeout :
    ∃ s t : State, s.inputs = [.txTimeout] ∧ s.ser = .xmit 63 ∧ s.txTimeout.isSome = true ∧
      t.inputs = [.txTimeout] ∧ t.ser = .xmit 0 ∧ t.txTimeout = none :=
  ⟨{ about .txTimeout with ser := .xmit 63, txTimeout := some 0 }, { about .txTimeout with ser := .xmit 0 }, by decide⟩

theorem witness_Unguarded :
    (∃ s : State, s.inputs = [.txDone] ∧ ∀ k, s.ser ≠ .xmit k) ∧
    (∃ s : State, s.inputs = [.txTimeout] ∧ ∀ k, s.ser ≠ .xmit k) ∧
    (∃ s : State, s.inputs = [.strobeEnd] ∧ s.ser ≠ .strobe) ∧
    (∃ s : State, s.inputs = [.heldWrite] ∧ s.held = none) ∧ ∃ s : State, s.inputs = [] :=
  ⟨⟨{ about .txDone with ser := .strobe }, by decide⟩, ⟨about .txTimeout, by decide⟩,
    ⟨{ about .strobeEnd with ser := .xmit 63 }, by decide⟩, ⟨about .heldWrite, by decide⟩, base, rfl⟩

theorem witness_CompleteFlush :
    ∃ s u v : State, s.inputs = flushInputs ++ [.heldWrite] ∧ exec .flush s = .next u ∧
      exec (.setpix 15 31 true true) s = .next v :=
  ⟨{ base with inputs := flushInputs ++ [.heldWrite] }, _, _, rfl, rfl, rfl⟩

theorem witness_SilentBus :
    ∃ s : State, s.ser = .xmit 63 ∧ s.inputs = [.host (.write 0 0x1000), .heldWrite, .strobeEnd] ∧
      (∀ e ∈ s.inputs, e.freesBus = false) ∧ s.held ≠ none :=
  ⟨{ base with
      ser := .xmit 63, held := some (.cmd 0x6000), inputs := [.host (.write 0 0x1000), .heldWrite, .strobeEnd] },
    by decide⟩

theorem witness_OutputsDuringThePulse :
    ∃ s t : State, s.ser = .strobe ∧ s.inputs = [.strobeEnd] ∧ step s = .next t :=
  ⟨{ about .strobeEnd with ser := .strobe }, _, rfl, rfl, rfl⟩

theorem witness_RegisterAccesses :
    (∀ e : Input, (about e).held = none ∧ (about e).inputs = [e]) ∧
      ∃ s : State, s.held ≠ none ∧ s.ser ≠ .idle ∧ s.inputs = [.host (.read 2)] :=
  ⟨fun _ => ⟨rfl, rfl⟩, { about (.host (.read 2)) with held := some (.cmd 0x1000), ser := .xmit 0 }, by decide⟩

/-- A step that changes FB by a command, by the last payload byte, and by a reset. -/
theorem witness_FrameChanges :
    (∃ t, step (about (.host (.write 0 0x6000))) = .next t ∧ t.fb ≠ (about (.host (.write 0 0x6000))).fb ∧
      commandTaken (about (.host (.write 0 0x6000))) = some .inv) ∧
    (∃ t, step { about (.host (.write 1 7)) with ldp := true, ldcnt := 63 } = .next t ∧ t.fb ≠ []) ∧
    ∃ t, step { withByte 0 1 with inputs := [.reset] } = .next t ∧ t.fb ≠ [(0, 1)] :=
  ⟨⟨_, rfl, by decide +kernel⟩, ⟨_, rfl, by decide +kernel⟩, _, rfl, by decide⟩

theorem witness_FrameFixed :
    ∃ s t : State, step s = .next t ∧ s.ser ≠ .idle ∧ ¬resets s :=
  ⟨{ about .txDone with ser := .xmit 5 }, _, rfl, by decide, by unfold resets; decide⟩

theorem witness_PixChanges :
    (∃ t, step (about (.host (.write 0 0x3FF8))) = .next t ∧
      commandTaken (about (.host (.write 0 0x3FF8))) = some (.getpix 15 31)) ∧
    (∃ t, step (about .powerUp) = .next t ∧ resets (about .powerUp)) ∧
    ∃ t, step (about .txDone) = .next t ∧ commandTaken (about .txDone) = none ∧ ¬resets (about .txDone) :=
  ⟨⟨_, rfl, by decide⟩, ⟨_, rfl, .inr rfl⟩, _, rfl, by decide, by unfold resets; decide⟩

theorem witness_BrightChanges :
    (∃ t, step (about (.host (.write 3 0x1234))) = .next t ∧ t.bright ≠ base.bright) ∧
      ∃ t, step { about .reset with bright := 0 } = .next t ∧ t.bright ≠ 0 :=
  ⟨⟨_, rfl, by decide⟩, _, rfl, by decide⟩

theorem witness_FirstErrorKept :
    (∃ s t : State, step s = .next t ∧ s.err ≠ .noError ∧ t.err = s.err) ∧
      ∃ s t : State, step s = .next t ∧ s.err ≠ .noError ∧ t.err = .noError :=
  ⟨⟨{ about (.host (.write 1 0)) with err := .txTimeout }, _, rfl, by decide⟩,
    { about (.host (.write 2 0)) with err := .txTimeout }, _, rfl, by decide⟩

theorem witness_DisplayChanges :
    (∃ s t : State, step s = .next t ∧ t.out ≠ s.out ∧ s.ser = .strobe) ∧
      ∃ s t : State, step s = .next t ∧ t.ch ≠ s.ch ∧ s.ser = .xmit 0 :=
  ⟨⟨{ about .strobeEnd with ser := .strobe }, _, rfl, by decide +kernel⟩,
    { about .txDone with ser := .xmit 0, fb := [(0, 1)] }, _, rfl, by decide +kernel⟩

theorem witness_Commands : ∃ t, exec (.setpix 15 31 true true) base = .next t := ⟨_, rfl⟩

theorem witness_CommandClauses :
    writesFrame .flush = false ∧ (∀ l x, Instr.shd ≠ .getpix l x) ∧ Instr.setpix 0 0 true false ≠ .load ∧
      ∀ l x on, Instr.setpix 0 0 true false ≠ .setpix l x on true := by
  refine ⟨rfl, ?_, ?_, ?_⟩ <;> simp

theorem witness_AnyStep : ∃ t, step (about .reset) = .next t := ⟨_, rfl⟩

/-- A reset in XMIT, a reset in STROBE, a power cycle, an enabled timeout, and a step that draws nothing. -/
theorem witness_EachDraw :
    (∃ s t : State, step s = .next t ∧ s.inputs.head? = some .reset ∧ s.ser = .xmit 63) ∧
    (∃ s t : State, step s = .next t ∧ s.inputs.head? = some .reset ∧ s.ser = .strobe) ∧
    (∃ s t : State, step s = .next t ∧ s.inputs.head? = some .powerUp) ∧
    (∃ s t : State, step s = .next t ∧ s.inputs.head? = some .txTimeout ∧ s.ser = .xmit 0 ∧ s.txTimeout.isSome = true) ∧
    ∃ s t : State, step s = .next t ∧ ¬resets s ∧ s.inputs.head? ≠ some .txTimeout :=
  ⟨⟨{ about .reset with ser := .xmit 63 }, _, rfl, rfl, rfl⟩, ⟨{ about .reset with ser := .strobe }, _, rfl, rfl, rfl⟩,
    ⟨about .powerUp, _, rfl, rfl⟩, ⟨{ about .txTimeout with ser := .xmit 0, txTimeout := some 0 }, _, rfl, rfl, rfl, rfl⟩,
    ⟨about .txDone, _, rfl, by unfold resets; decide, by decide⟩⟩

theorem witness_ResetAndPowerUp :
    ({ about .reset with ser := .xmit 5 } : State).inputs = [.reset] ∧
      (∀ k, ({ about .reset with ser := .strobe } : State).ser ≠ .xmit k) ∧
      ({ about .reset with ser := .xmit 63 } : State).ser ≠ .strobe ∧ (about .powerUp).inputs = [.powerUp] := by
  decide

theorem witness_InvariantStep : ∃ s t : State, Inv s ∧ step s = .next t ∧ s.ser = .xmit 63 :=
  ⟨{ about .txDone with ser := .xmit 63 }, _,
    ⟨by decide, fun _ => rfl, (fun h => nomatch h), show ∀ j : Fin 64, j.val < 63 → zeros[j.val] = fbByte base (63 - 1 - j.val) by decide +kernel⟩,
    rfl, rfl⟩

theorem witness_LatchedFrame : ∃ s t : State, Inv s ∧ s.ser = .strobe ∧ s.inputs = [.strobeEnd] ∧ step s = .next t :=
  ⟨{ about .strobeEnd with ser := .strobe }, _,
    ⟨by decide, fun _ => rfl, (fun h => nomatch h), show ∀ j : Fin 64, zeros[j.val] = fbByte base (63 - j.val) by decide +kernel⟩,
    rfl, rfl, rfl⟩

end Sys2Proof.Tests
end

section
/-! PROOFS. The statements of spec/00_scope.md: the host waits for its held write, no step stops, the parameter is fixed and the
traces only grow, an operand out of range faults. -/

namespace Sys2Proof.Machine

variable {s t u : State}

/-! ### Operands out of range -/

/-- Settles O26: each of the four operations begins with its range check. -/
theorem outOfRangeOperandsFault : Obligations.OutOfRangeOperandsFault :=
  fun _ _ _ _ _ =>
    ⟨fun h => ⟨withPixel_of_not h _, withPixel_of_not h _⟩, fun hl => withLayer_of_not hl _, fun hx => withColumn_of_not hx _⟩

/-! ### The held write goes first -/

/-- Settles O10: the host may not make such an access, and an access it may not make is passed over. -/
theorem hostWaitsForItsHeldWrite : Obligations.HostWaitsForItsHeldWrite := by
  intro s p a rest hheld hi hguard
  have hwait : s.ser = .idle ∨ a.neverHolds = false := by
    rcases hguard with hidle | ⟨w, rfl | rfl⟩
    · exact .inl hidle
    · exact .inr rfl
    · exact .inr rfl
  exact step_host_not_enabled hi (not_mayIssue_of_held hheld hwait)

/-! ### No step stops -/

theorem fieldL_lt (w : Word) : fieldL w < 16 := (w.extractLsb' 8 4).isLt

theorem fieldX_lt (w : Word) : fieldX w < 32 := (w.extractLsb' 3 5).isLt

/-- Every row of the opcode table reads its operands from fields as wide as their ranges (30_encoding R42). -/
theorem command_wellFormed {r : OpcodeRow} (hr : r ∈ opcodeTable) (w : Word) : (r.command w).wellFormed = true := by
  simp only [opcodeTable, List.mem_cons, List.not_mem_nil, or_false] at hr
  rcases hr with rfl | rfl | rfl | rfl | rfl | rfl | rfl | rfl | rfl | rfl <;>
    simp [Instr.wellFormed, fieldL_lt, fieldX_lt]

/-- A legal word decodes to the command of a row of the opcode table that it matches (30_encoding R44). -/
theorem decode_legal_row {w : Word} {i : Instr} (h : decode w = .legal i) :
    ∃ r ∈ opcodeTable, r.hits w = true ∧ r.command w = i := by
  unfold decode at h
  split at h
  · next r hfind =>
    cases h
    exact ⟨r, List.mem_of_find?_eq_some hfind, by simpa using List.find?_some hfind, rfl⟩
  · cases h

/-- A decoded command is in range (30_encoding R42). -/
theorem decode_wellFormed {w : Word} {i : Instr} (h : decode w = .legal i) : i.wellFormed = true := by
  obtain ⟨r, hr, -, rfl⟩ := decode_legal_row h
  exact command_wellFormed hr w

/-- A command whose operands are in range answers a next state (00_scope R11). -/
theorem exec_next_of_wellFormed {i : Instr} (hw : i.wellFormed = true) (s : State) : ∃ t, exec i s = .next t := by
  cases i with
  | setpix l x on f =>
    obtain ⟨hl, hx⟩ : l < 16 ∧ x < 32 := by simpa [Instr.wellFormed] using hw
    exact ⟨_, withPixel_of_lt hl hx _⟩
  | getpix l x =>
    obtain ⟨hl, hx⟩ : l < 16 ∧ x < 32 := by simpa [Instr.wellFormed] using hw
    exact ⟨_, withPixel_of_lt hl hx _⟩
  | setrow l on => exact ⟨_, withLayer_of_lt (of_decide_eq_true hw) _⟩
  | setcol x on => exact ⟨_, withColumn_of_lt (of_decide_eq_true hw) _⟩
  | clr => exact ⟨_, rfl⟩
  | inv => exact ⟨_, rfl⟩
  | shr => exact ⟨_, rfl⟩
  | shd => exact ⟨_, rfl⟩
  | load => exact ⟨_, rfl⟩
  | flush => exact ⟨_, rfl⟩

theorem takeWrite_next (p : PortWrite) (s : State) : ∃ t, takeWrite p s = .next t := by
  cases p with
  | cmd w =>
    rcases cmdWrite_cases w s with ⟨i, hlegal, hrun⟩ | ⟨-, hraise⟩
    · obtain ⟨t, ht⟩ := exec_next_of_wellFormed (decode_wellFormed hlegal) (atDecode s)
      exact ⟨t, hrun.trans ht⟩
    · exact ⟨_, hraise⟩
  | data w => exact ⟨_, rfl⟩

theorem issueWrite_next (p : PortWrite) (s : State) : ∃ t, issueWrite p s = .next t := by
  rcases issueWrite_cases p s with ⟨-, htake⟩ | ⟨-, hpark⟩
  · rw [htake]
    exact takeWrite_next p s
  · exact ⟨_, hpark⟩

theorem retryHeld_next (s : State) : ∃ t, retryHeld s = .next t := by
  rcases retryHeld_cases s with ⟨p, -, -, htake⟩ | ⟨-, hstay⟩
  · rw [htake]
    exact takeWrite_next p _
  · exact ⟨_, hstay⟩

theorem hostWrite_next (r : Reg) (w : Word) (s : State) : ∃ t, hostWrite r w s = .next t := by
  cases r with
  | cmd => exact issueWrite_next (.cmd w) s
  | data => exact issueWrite_next (.data w) s
  | status => exact ⟨_, rfl⟩
  | bright => exact ⟨_, rfl⟩

theorem hostAccess_next (a : Access) (s : State) : ∃ t, hostAccess a s = .next t := by
  cases hm : mayIssue a s with
  | false => exact ⟨s, hostAccess_of_not_mayIssue hm⟩
  | true =>
    rw [hostAccess_of_mayIssue hm]
    cases a with
    | read addr => exact ⟨_, rfl⟩
    | write addr w => exact hostWrite_next (Reg.ofAddr addr) w s

theorem takeInput_next (e : Input) (s : State) : ∃ t, takeInput e s = .next t := by
  cases e with
  | host a => exact hostAccess_next a s
  | heldWrite => exact retryHeld_next s
  | txDone => exact ⟨_, rfl⟩
  | txTimeout => exact ⟨_, rfl⟩
  | strobeEnd => exact ⟨_, rfl⟩
  | reset => exact ⟨_, rfl⟩
  | powerUp => exact ⟨_, rfl⟩

/-- Settles O12: the only stop of the machine is OutOfRange, and a decoded command is in range. -/
theorem everyStepAnswersANextState : Obligations.EveryStepAnswersANextState := by
  intro s
  rcases step_cases s with ⟨-, hstay⟩ | ⟨e, rest, -, htake⟩
  · exact ⟨s, hstay⟩
  · rw [htake]
    exact takeInput_next e _

/-! ### The parameter and the traces -/

/-- From `s` to `t` the parameter is fixed, the two traces are extended and the counter of draws does not fall (log 4, 7, 9). -/
structure TracesExtend (s t : State) : Prop where
  txTimeout : t.txTimeout = s.txTimeout
  tx : s.tx <+: t.tx
  rdata : s.rdata <+: t.rdata
  draws : s.draws ≤ t.draws

theorem TracesExtend.of_eq (hp : t.txTimeout = s.txTimeout) (htx : t.tx = s.tx) (hr : t.rdata = s.rdata)
    (hd : t.draws = s.draws) : TracesExtend s t :=
  ⟨hp, htx ▸ List.prefix_rfl, hr ▸ List.prefix_rfl, hd.ge⟩

theorem TracesExtend.trans (h : TracesExtend s t) (h' : TracesExtend t u) : TracesExtend s u :=
  ⟨h'.txTimeout.trans h.txTimeout, h.tx.trans h'.tx, h.rdata.trans h'.rdata, h.draws.trans h'.draws⟩

theorem exec_tracesExtend {i : Instr} (h : exec i s = .next t) : TracesExtend s t := by
  rcases exec_next_cases h with ⟨f, rfl⟩ | ⟨l, x, on, -, -, rfl | rfl⟩ | ⟨b, rfl⟩ | rfl | rfl <;>
    exact .of_eq rfl rfl rfl rfl

theorem raiseError_tracesExtend (e : ErrorCode) (s : State) : TracesExtend s (raiseError e s) := .of_eq rfl rfl rfl rfl

theorem atDecode_tracesExtend (s : State) : TracesExtend s (atDecode s) := by
  rw [atDecode_frame]
  exact .of_eq rfl rfl rfl rfl

theorem dataWrite_tracesExtend (w : Word) (s : State) : TracesExtend s (dataWrite w s) := by
  rw [dataWrite_frame]
  exact .of_eq rfl rfl rfl rfl

theorem sendByte_tracesExtend (k : Fin 64) (s : State) : TracesExtend s (sendByte k s) := by
  constructor <;> simp

theorem TakesWrite.tracesExtend {e : Input} {p : PortWrite} (h : TakesWrite e s p u) : TracesExtend s u := by
  rw [h.state_eq]
  exact .of_eq rfl rfl rfl rfl

/-- Only a sent byte extends TX, only a read extends the answers, and only an abort, a reset or a power cycle draws. -/
theorem InputEffect.tracesExtend {e : Input} (h : InputEffect e s t) : TracesExtend s t := by
  cases h with
  | command w i u taken _ runs => exact (taken.tracesExtend.trans (atDecode_tracesExtend u)).trans (exec_tracesExtend runs)
  | illegalWord w u taken _ result =>
    rw [result]
    exact (taken.tracesExtend.trans (atDecode_tracesExtend u)).trans (raiseError_tracesExtend _ _)
  | data w u taken result =>
    rw [result]
    exact taken.tracesExtend.trans (dataWrite_tracesExtend w u)
  | sends k _ _ result =>
    rw [result]
    exact sendByte_tracesExtend k s
  | reads =>
    subst t
    exact ⟨rfl, List.prefix_rfl, List.prefix_append .., le_rfl⟩
  | aborts | resets | powersUp =>
    subst t
    exact ⟨rfl, List.prefix_rfl, List.prefix_rfl, Nat.le_add_right ..⟩
  | holds | notEnabled | statusWrite | brightWrite | stillHeld | latches | passedOver =>
    subst t
    exact .of_eq rfl rfl rfl rfl

theorem step_tracesExtend (h : step s = .next t) : TracesExtend s t := by
  rcases step_effect h with ⟨-, rfl⟩ | ⟨e, rest, -, heffect⟩
  · exact .of_eq rfl rfl rfl rfl
  · have hpop : TracesExtend s { s with inputs := rest } := .of_eq rfl rfl rfl rfl
    exact hpop.trans heffect.tracesExtend

/-- Settles O52, by the inversion of the step. -/
theorem parameterIsFixedAndTracesGrow : Obligations.ParameterIsFixedAndTracesGrow := by
  intro s t h
  obtain ⟨hparam, htx, hrdata, hdraws⟩ := step_tracesExtend h
  exact ⟨hparam, htx, hrdata, hdraws⟩

end Sys2Proof.Machine
end

section
/-! PROOFS. The statements of spec/10_state.md: the reset values, the invariant of the reachable states, and which steps change
FB, STATUS.PIX, BRIGHT, CH and OUT. -/

namespace Sys2Proof.Machine

variable {s t u : State}

/-! ### The reset values -/

/-- Settles O54: each field of `State.reset` is the entry of the table (10_state R26). -/
theorem resetStateHasTheResetValues : Obligations.ResetStateHasTheResetValues :=
  ⟨fun a _ => read_nil a, rfl, rfl, rfl, rfl, rfl, rfl, rfl, rfl⟩

/-! ### What a taken write keeps -/

/-- A command writes no field but FB, PIX, LDP, LDCNT and SER (40_framebuffer R50, 41 R68). -/
theorem exec_frame {i : Instr} (h : exec i s = .next t) :
    t = { s with fb := t.fb, pix := t.pix, ldp := t.ldp, ldcnt := t.ldcnt, ser := t.ser } := by
  rcases exec_next_cases h with ⟨f, rfl⟩ | ⟨l, x, on, -, -, rfl | rfl⟩ | ⟨b, rfl⟩ | rfl | rfl <;> rfl

/-- GETPIX, LOAD and FLUSH do not write FB (10_state R14). -/
theorem exec_fb_of_not_writesFrame {i : Instr} (h : exec i s = .next t) (hi : writesFrame i = false) : t.fb = s.fb := by
  cases i with
  | getpix l x =>
    obtain ⟨-, -, rfl⟩ := withPixel_eq_next h
    rfl
  | load => cases h; rfl
  | flush => cases h; rfl
  | _ => cases hi

/-- No command but GETPIX writes PIX (10_state R24). -/
theorem exec_pix_of_not_getpix {i : Instr} (h : exec i s = .next t) (hi : ∀ l x, i ≠ .getpix l x) : t.pix = s.pix := by
  cases i with
  | getpix l x => exact absurd rfl (hi l x)
  | setpix l x on f =>
    obtain ⟨-, -, rfl⟩ := withPixel_eq_next h
    cases f <;> rfl
  | setrow l on =>
    obtain ⟨-, rfl⟩ := withLayer_eq_next h
    rfl
  | setcol x on =>
    obtain ⟨-, rfl⟩ := withColumn_eq_next h
    rfl
  | _ => cases h; rfl

/-- GETPIX writes the addressed pixel into PIX (40_framebuffer R54). -/
theorem exec_getpix_pix {l x : Nat} (h : exec (.getpix l x) s = .next t) : t.pix = pix s l x := by
  obtain ⟨-, -, rfl⟩ := withPixel_eq_next h
  rfl

@[simp] theorem atDecode_fb (s : State) : (atDecode s).fb = s.fb := by rw [atDecode_frame]
@[simp] theorem atDecode_pix (s : State) : (atDecode s).pix = s.pix := by rw [atDecode_frame]
@[simp] theorem atDecode_ser (s : State) : (atDecode s).ser = s.ser := by rw [atDecode_frame]

@[simp] theorem dataWrite_pix (w : Word) (s : State) : (dataWrite w s).pix = s.pix := by rw [dataWrite_frame]
@[simp] theorem dataWrite_ser (w : Word) (s : State) : (dataWrite w s).ser = s.ser := by rw [dataWrite_frame]

/-- A DATA write that is not the 64th payload byte does not write FB (10_state R14). -/
theorem dataWrite_fb_of_not_last {w : Word} (h : ¬(s.ldp = true ∧ s.ldcnt.val = 63)) : (dataWrite w s).fb = s.fb := by
  cases hldp : s.ldp with
  | false => rw [dataWrite_of_not_ldp hldp, raiseError_fb]
  | true =>
    have hcount : s.ldcnt.val + 1 < 64 := by
      have := s.ldcnt.isLt
      have : s.ldcnt.val ≠ 63 := fun h63 => h ⟨hldp, h63⟩
      omega
    rw [dataWrite_of_ldp hldp, payload_of_lt hcount, stageByte_fb]

/-- The state in which a write is taken, with the field that may differ as a variable. -/
theorem TakesWrite.exists_held {e : Input} {p : PortWrite} (h : TakesWrite e s p u) : ∃ q, u = { s with held := q } :=
  ⟨_, h.state_eq⟩

/-! ### Which command a step executes -/

/-- The command that an input makes the state execute is the one `commandTaken` names. -/
theorem TakesWrite.commandTaken_eq {e : Input} {rest : List Input} {w : Word} {i : Instr} (hi : s.inputs = e :: rest)
    (taken : TakesWrite e { s with inputs := rest } (.cmd w) u) (hd : decode w = .legal i) : commandTaken s = some i := by
  simp [commandTaken, taken.writeTaken_eq hi, hd, Command.instr?]

/-- An input that makes the state take a write has the effect of that write. -/
theorem TakesWrite.takeInput_eq {e : Input} {p : PortWrite} (h : TakesWrite e s p u) : takeInput e s = takeWrite p u := by
  obtain ⟨hidle, ⟨hfree, rfl, rfl⟩ | ⟨rfl, hheld, rfl⟩⟩ := h
  · have hissue : issueWrite p u = takeWrite p u := if_pos hidle
    cases p <;> exact (hostAccess_of_mayIssue (mayIssue_of_free hfree)).trans hissue
  · simp [takeInput, retryHeld, hheld, hidle]

/-- The write that `writeTaken` names is taken by the step's input. -/
theorem takesWrite_of_writeTaken {p : PortWrite} (h : writeTaken s = some p) :
    ∃ e rest u, s.inputs = e :: rest ∧ TakesWrite e { s with inputs := rest } p u := by
  unfold writeTaken at h
  split at h
  · next addr w rest hi =>
    split at h
    · next hfree =>
      refine ⟨_, rest, _, hi, hfree.1, .inl ⟨hfree.2, rfl, ?_⟩⟩
      rcases ofAddr_cases addr with ⟨rfl, ha⟩ | ⟨rfl, ha⟩ | ⟨rfl, ha⟩ | ⟨rfl, ha⟩ <;> rw [ha] at h <;> cases h <;> rfl
    · cases h
  · next rest hi =>
    split at h
    · next hidle => exact ⟨_, rest, _, hi, hidle, .inr ⟨rfl, h, rfl⟩⟩
    · cases h
  · cases h

/-- A step that executes a command is that command, after the abandonment of a pending LOAD. -/
theorem step_of_commandTaken {i : Instr} (h : commandTaken s = some i) :
    ∃ q rest, step s = exec i (atDecode { s with inputs := rest, held := q }) := by
  obtain ⟨w, hw, hd⟩ : ∃ w, writeTaken s = some (.cmd w) ∧ (decode w).instr? = some i := by
    unfold commandTaken at h
    split at h
    · exact ⟨_, ‹_›, h⟩
    · cases h
    · cases h
  obtain ⟨e, rest, u, hi, taken⟩ := takesWrite_of_writeTaken hw
  obtain ⟨q, rfl⟩ := taken.exists_held
  have hstep := (step_cons hi).trans taken.takeInput_eq
  rcases cmdWrite_cases w { s with inputs := rest, held := q } with ⟨j, hlegal, hrun⟩ | ⟨hillegal, -⟩
  · rw [hlegal] at hd
    cases hd
    exact ⟨q, rest, hstep.trans hrun⟩
  · rw [hillegal] at hd
    cases hd

/-- A step with a reset or a power cycle answers the state that it makes. -/
theorem step_of_resets (h : resets s) : ∃ rest,
    step s = .next (resetInput { s with inputs := rest }) ∨ step s = .next (powerUp { s with inputs := rest }) := by
  rcases h with h | h <;> obtain ⟨rest, hi⟩ := List.head?_eq_some_iff.1 h
  · exact ⟨rest, .inl (step_cons hi)⟩
  · exact ⟨rest, .inr (step_cons hi)⟩

theorem resets_of_reset {rest : List Input} (h : s.inputs = .reset :: rest) : resets s := .inl (h ▸ rfl)

theorem resets_of_powerUp {rest : List Input} (h : s.inputs = .powerUp :: rest) : resets s := .inr (h ▸ rfl)

/-! ### The invariant -/

/-- The invariant depends on FB, LDP, LDCNT, SER and CH alone. -/
theorem Inv.congr (h : Inv s) (hfb : t.fb = s.fb) (hldp : t.ldp = s.ldp) (hldcnt : t.ldcnt = s.ldcnt)
    (hser : t.ser = s.ser) (hch : t.ch = s.ch) : Inv t := by
  obtain ⟨hmem, hload, hexcl, hchain⟩ := h
  refine ⟨hfb ▸ hmem, ?_, ?_, ?_⟩
  · rwa [loadCountIdle, hldp, hldcnt]
  · rwa [loadOrFlush, hldp, hser]
  · simpa only [chainTracksFrame, hser, hch, fbByte, hfb] using hchain

/-- With SER = IDLE nothing is asked of the chain. -/
theorem Inv.of_idle (hmem : s.fb.wf) (hload : loadCountIdle s) (hser : s.ser = .idle) : Inv s :=
  ⟨hmem, hload, fun _ => hser, by simp [chainTracksFrame, hser]⟩

/-- Settles O57: after reset memory is empty, no LOAD is pending and no flush runs. -/
theorem resetStateSatisfiesTheInvariant : Obligations.ResetStateSatisfiesTheInvariant :=
  .of_idle nil_wf (fun _ => rfl) rfl

/-- The start of a flush with no LOAD pending keeps the invariant: no byte is sent yet. -/
theorem Inv.flushStart (h : Inv s) (hldp : s.ldp = false) : Inv (flushStart s) where
  memory := h.memory
  load := h.load
  exclusive := fun hpending => by simp [hldp] at hpending
  chain := fun j hj => absurd hj (Nat.not_lt_zero j.val)

theorem Inv.raiseError (e : ErrorCode) (h : Inv s) : Inv (raiseError e s) := h.congr rfl rfl rfl rfl rfl

theorem Inv.atDecode (h : Inv s) (hser : s.ser = .idle) : Inv (atDecode s) := by
  cases hldp : s.ldp with
  | false => rwa [atDecode_of_not_ldp hldp]
  | true => exact .of_idle (by simpa using h.memory) (by simp [Machine.atDecode, hldp, loadCountIdle]) (by simpa using hser)

/-- A command that executes with SER = IDLE and no LOAD pending keeps the invariant. -/
theorem Inv.exec {i : Instr} (h : Inv s) (hser : s.ser = .idle) (hldp : s.ldp = false) (hrun : exec i s = .next t) :
    Inv t := by
  have hpixel (l x : Nat) (on : Bool) : Inv (setPixel l x on s) := .of_idle (setPixel_wf l x on s) h.load hser
  rcases exec_next_cases hrun with ⟨f, rfl⟩ | ⟨l, x, on, -, -, rfl | rfl⟩ | ⟨b, rfl⟩ | rfl | rfl
  · exact .of_idle (setFrame_wf f s) h.load hser
  · exact hpixel l x on
  · exact (hpixel l x on).flushStart hldp
  · exact h.congr rfl rfl rfl rfl rfl
  · exact .of_idle h.memory (fun hnone => by simp at hnone) hser
  · exact h.flushStart hldp

/-- A payload byte keeps the count at 0 outside a LOAD: before the 64th the LOAD stays pending, after it the count is 0. -/
theorem payload_loadCountIdle {v : Byte} (hldp : s.ldp = true) : loadCountIdle (payload v s) := by
  intro hnone
  by_cases hcount : s.ldcnt.val + 1 < 64
  · simp [payload_of_lt hcount, hldp] at hnone
  · rw [payload_of_not_lt hcount, loadCommit_ldcnt]

theorem Inv.dataWrite {w : Word} (h : Inv s) (hser : s.ser = .idle) : Inv (dataWrite w s) := by
  cases hldp : s.ldp with
  | false =>
    rw [dataWrite_of_not_ldp hldp]
    exact h.raiseError _
  | true =>
    have hser' : (Machine.dataWrite w s).ser = .idle := by simpa using hser
    rw [dataWrite_of_ldp hldp] at hser' ⊢
    exact .of_idle (payload_wf _ h.memory) (payload_loadCountIdle hldp) hser'

/-- After byte k is sent, stages 0 to k of the chain hold bytes k to 0 of the frame (41_display_transmit R69, R70). -/
theorem sendByte_stage {k : Fin 64} (h : ∀ j : Fin 64, j.val < k.val → s.ch[j.val] = fbByte s (k.val - 1 - j.val))
    (j : Fin 64) (hj : j.val ≤ k.val) : (sendByte k s).ch[j.val] = fbByte s (k.val - j.val) := by
  have hstage : (sendByte k s).ch[j.val] = if j.val = 0 then fbByte s k.val else s.ch[j.val - 1] := by
    simp only [sendByte_ch, shiftIn_stage]
  rw [hstage]
  split
  · next h0 => rw [h0, Nat.sub_zero]
  · next h0 =>
    have hbefore : s.ch[j.val - 1] = fbByte s (k.val - 1 - (j.val - 1)) :=
      h ⟨j.val - 1, by omega⟩ (show j.val - 1 < k.val by omega)
    have hindex : k.val - 1 - (j.val - 1) = k.val - j.val := by omega
    rw [hbefore, hindex]

theorem Inv.sendByte {k : Fin 64} (h : Inv s) (hser : s.ser = .xmit k) : Inv (sendByte k s) where
  memory := by simpa using h.memory
  load := by simpa [loadCountIdle] using h.load
  exclusive := fun hpending => by
    have hidle := h.exclusive (by simpa using hpending)
    rw [hser] at hidle
    cases hidle
  chain := by
    have hsent : ∀ j : Fin 64, j.val < k.val → s.ch[j.val] = fbByte s (k.val - 1 - j.val) := by
      simpa only [chainTracksFrame, hser] using h.chain
    have hframe (a : Nat) : fbByte (Machine.sendByte k s) a = fbByte s a := fbByte_congr (sendByte_fb s k) a
    by_cases hlast : k.val + 1 < 64
    · simp only [chainTracksFrame, sendByte_ser, dif_pos hlast, hframe, Nat.add_sub_cancel]
      exact fun j hj => sendByte_stage hsent j (Nat.le_of_lt_succ hj)
    · have hk : k.val = 63 := by omega
      simp only [chainTracksFrame, sendByte_ser, dif_neg hlast, hframe]
      exact fun j => hk ▸ sendByte_stage hsent j (by omega)

theorem TakesWrite.inv {e : Input} {p : PortWrite} (taken : TakesWrite e s p u) (h : Inv s) : Inv u := by
  obtain ⟨q, rfl⟩ := taken.exists_held
  exact h.congr rfl rfl rfl rfl rfl

theorem TakesWrite.ser_idle {e : Input} {p : PortWrite} (taken : TakesWrite e s p u) : u.ser = .idle := by
  obtain ⟨q, rfl⟩ := taken.exists_held
  exact taken.1

/-- A write is taken only with SER = IDLE, and then a command finds no LOAD pending; a sent byte extends the chain; every other
input leaves SER = IDLE or keeps what the invariant reads. -/
theorem InputEffect.inv {e : Input} (heffect : InputEffect e s t) (h : Inv s) : Inv t := by
  cases heffect with
  | command w i u taken _ runs =>
    exact ((taken.inv h).atDecode taken.ser_idle).exec (by simpa using taken.ser_idle) (atDecode_ldp u) runs
  | illegalWord w u taken _ result =>
    rw [result]
    exact ((taken.inv h).atDecode taken.ser_idle).raiseError _
  | data w u taken result =>
    rw [result]
    exact (taken.inv h).dataWrite taken.ser_idle
  | sends k _ guard result =>
    rw [result]
    exact h.sendByte guard
  | aborts | latches =>
    subst t
    exact .of_idle h.memory h.load rfl
  | resets | powersUp =>
    subst t
    exact .of_idle nil_wf (fun _ => rfl) rfl
  | holds | notEnabled | reads | statusWrite | brightWrite | stillHeld | passedOver =>
    subst t
    exact h.congr rfl rfl rfl rfl rfl

/-- Settles O58, by the inversion of the step. -/
theorem everyStepKeepsTheInvariant : Obligations.EveryStepKeepsTheInvariant := by
  intro s t h hstep
  rcases step_effect hstep with ⟨-, rfl⟩ | ⟨e, rest, -, heffect⟩
  · exact h
  · exact heffect.inv (h.congr rfl rfl rfl rfl rfl)

/-! ### FB -/

/-- Settles O44: of the effects of an input, only a command, a DATA write and a reset reach FB. -/
theorem frameChangesOnlyByItsWriters : Obligations.FrameChangesOnlyByItsWriters := by
  intro s t hstep hne
  rcases step_effect hstep with ⟨-, rfl⟩ | ⟨e, rest, hi, heffect⟩
  · exact absurd rfl hne
  cases heffect with
  | command w i u taken decoded runs =>
    refine .inl ⟨i, taken.commandTaken_eq hi decoded, Bool.of_not_eq_false fun hreads => hne ?_⟩
    obtain ⟨q, rfl⟩ := taken.exists_held
    rw [exec_fb_of_not_writesFrame runs hreads, atDecode_fb]
  | illegalWord w u taken _ result =>
    refine absurd ?_ hne
    obtain ⟨q, rfl⟩ := taken.exists_held
    rw [result, raiseError_fb, atDecode_fb]
  | data w u taken result =>
    refine .inr (.inl ⟨w, taken.writeTaken_eq hi, ?_⟩)
    obtain ⟨q, rfl⟩ := taken.exists_held
    by_contra hnot
    exact hne (result ▸ dataWrite_fb_of_not_last hnot)
  | resets input result =>
    subst e t
    exact .inr (.inr ⟨resets_of_reset hi, read_nil⟩)
  | powersUp input result =>
    subst e t
    exact .inr (.inr ⟨resets_of_powerUp hi, read_nil⟩)
  | sends k _ _ result => exact absurd (result ▸ sendByte_fb _ k) hne
  | holds | notEnabled | reads | statusWrite | brightWrite | stillHeld | aborts | latches | passedOver =>
    subst t
    exact absurd rfl hne

/-! ### STATUS.PIX -/

/-- A step that executes no GETPIX and is no reset keeps PIX (10_state R24). -/
theorem step_pix_of_not_getpix (hstep : step s = .next t) (hget : ∀ l x, commandTaken s ≠ some (.getpix l x))
    (hreset : ¬resets s) : t.pix = s.pix := by
  rcases step_effect hstep with ⟨-, rfl⟩ | ⟨e, rest, hi, heffect⟩
  · rfl
  cases heffect with
  | command w i u taken decoded runs =>
    have hother : ∀ l x, i ≠ .getpix l x := fun l x heq => hget l x (heq ▸ taken.commandTaken_eq hi decoded)
    obtain ⟨q, rfl⟩ := taken.exists_held
    rw [exec_pix_of_not_getpix runs hother, atDecode_pix]
  | illegalWord w u taken _ result =>
    obtain ⟨q, rfl⟩ := taken.exists_held
    rw [result, raiseError_pix, atDecode_pix]
  | data w u taken result =>
    obtain ⟨q, rfl⟩ := taken.exists_held
    rw [result, dataWrite_pix]
  | resets input => exact absurd (resets_of_reset (input ▸ hi)) hreset
  | powersUp input => exact absurd (resets_of_powerUp (input ▸ hi)) hreset
  | sends k _ _ result => rw [result, sendByte_pix]
  | holds | notEnabled | reads | statusWrite | brightWrite | stillHeld | aborts | latches | passedOver =>
    subst t
    rfl

/-- Settles O46: the step of a GETPIX is that command, a reset clears PIX, and every other step keeps it. -/
theorem pixChangesOnlyByGetpix : Obligations.PixChangesOnlyByGetpix := by
  intro s t hstep
  refine ⟨fun l x hget => ?_, fun hreset => ?_, step_pix_of_not_getpix hstep⟩
  · obtain ⟨q, rest, hexec⟩ := step_of_commandTaken hget
    rw [exec_getpix_pix (hexec.symm.trans hstep), pix, pix, fbByte_congr (atDecode_fb _)]
    rfl
  · obtain ⟨rest, h | h⟩ := step_of_resets hreset <;> cases h.symm.trans hstep <;> rfl

/-! ### BRIGHT, CH and OUT -/

/-- From `s` to `t` the registers that drive the display keep their values: BRIGHT, CH and OUT (10_state R16, R20). -/
structure DisplayKept (s t : State) : Prop where
  bright : t.bright = s.bright
  ch : t.ch = s.ch
  out : t.out = s.out

theorem DisplayKept.trans (h : DisplayKept s t) (h' : DisplayKept t u) : DisplayKept s u :=
  ⟨h'.bright.trans h.bright, h'.ch.trans h.ch, h'.out.trans h.out⟩

theorem exec_displayKept {i : Instr} (h : exec i s = .next t) : DisplayKept s t := by
  rw [exec_frame h]
  exact ⟨rfl, rfl, rfl⟩

theorem atDecode_displayKept (s : State) : DisplayKept s (atDecode s) := by
  rw [atDecode_frame]
  exact ⟨rfl, rfl, rfl⟩

theorem dataWrite_displayKept (w : Word) (s : State) : DisplayKept s (dataWrite w s) := by
  rw [dataWrite_frame]
  exact ⟨rfl, rfl, rfl⟩

theorem TakesWrite.displayKept {e : Input} {p : PortWrite} (h : TakesWrite e s p u) : DisplayKept s u := by
  obtain ⟨q, rfl⟩ := h.exists_held
  exact ⟨rfl, rfl, rfl⟩

/-- What one input can do to BRIGHT, CH and OUT. -/
inductive DisplayEffect (e : Input) (s t : State) : Prop where
  /-- Nothing. -/
  | kept (result : DisplayKept s t)
  /-- BRIGHT is written. -/
  | brightWrite (w : Word) (input : e = .host (.write 3 w)) (result : t = setBright (lowByte w) s)
  /-- A flush that is sending moves the chain. -/
  | sending (k : Fin 64) (guard : s.ser = .xmit k) (bright : t.bright = s.bright) (out : t.out = s.out)
  /-- The latch pulse ends. -/
  | latches (input : e = .strobeEnd) (guard : s.ser = .strobe) (result : t = latch s)
  /-- Reset. -/
  | resets (input : e = .reset) (result : t = resetInput s)
  /-- A power cycle. -/
  | powersUp (input : e = .powerUp) (result : t = powerUp s)

/-- The inversion of an input, for the registers that drive the display. -/
theorem InputEffect.displayEffect {e : Input} (h : InputEffect e s t) : DisplayEffect e s t := by
  cases h with
  | command w i u taken _ runs =>
    exact .kept ((taken.displayKept.trans (atDecode_displayKept u)).trans (exec_displayKept runs))
  | illegalWord w u taken _ result =>
    subst t
    exact .kept ((taken.displayKept.trans (atDecode_displayKept u)).trans ⟨rfl, rfl, rfl⟩)
  | data w u taken result =>
    subst t
    exact .kept (taken.displayKept.trans (dataWrite_displayKept w u))
  | brightWrite w input result => exact .brightWrite w input result
  | sends k _ guard result => exact .sending k guard (result ▸ sendByte_bright s k) (result ▸ sendByte_out s k)
  | aborts k _ guard _ result => exact .sending k guard (result ▸ abortFlush_bright s) (result ▸ abortFlush_out s)
  | latches input guard result => exact .latches input guard result
  | resets input result => exact .resets input result
  | powersUp input result => exact .powersUp input result
  | holds | notEnabled | reads | statusWrite | stillHeld | passedOver =>
    subst t
    exact .kept ⟨rfl, rfl, rfl⟩

/-- Settles O47: only a BRIGHT write and a reset reach BRIGHT. -/
theorem brightChangesOnlyByItsWrite : Obligations.BrightChangesOnlyByItsWrite := by
  intro s t hstep hne
  rcases step_effect hstep with ⟨-, rfl⟩ | ⟨e, rest, hi, heffect⟩
  · exact absurd rfl hne
  cases heffect.displayEffect with
  | kept result => exact absurd result.bright hne
  | brightWrite w input result =>
    subst e t
    exact .inl ⟨w, hi ▸ rfl, lowByte_eq_setWidth w⟩
  | sending k _ bright _ => exact absurd bright hne
  | latches _ _ result => exact absurd (result ▸ rfl) hne
  | resets input result => exact .inr ⟨resets_of_reset (input ▸ hi), result ▸ rfl⟩
  | powersUp input result => exact .inr ⟨resets_of_powerUp (input ▸ hi), result ▸ rfl⟩

/-- A reset changes OUT only during the latch pulse (70 R104, R105). -/
theorem strobe_of_outAfterReset_ne (h : outAfterReset s ≠ s.out) : s.ser = .strobe := by
  unfold outAfterReset at h
  split at h
  · assumption
  · exact absurd rfl h
  · exact absurd rfl h

/-- A reset changes CH only while a byte is in flight (70 R104, R105). -/
theorem xmit_of_chainAfterReset_ne (h : chainAfterReset s ≠ s.ch) : ∃ k, s.ser = .xmit k := by
  unfold chainAfterReset at h
  split at h
  · exact ⟨_, ‹_›⟩
  · exact absurd rfl h
  · exact absurd rfl h

/-- Settles O49: only the flush, a reset and a power cycle reach OUT and CH. -/
theorem displayChangesOnlyByTheFlush : Obligations.DisplayChangesOnlyByTheFlush := by
  intro s t hstep
  rcases step_effect hstep with ⟨-, rfl⟩ | ⟨e, rest, hi, heffect⟩
  · exact ⟨absurd rfl, absurd rfl⟩
  have hhead : s.inputs.head? = some e := hi ▸ rfl
  cases heffect.displayEffect with
  | kept result => exact ⟨absurd result.out, absurd result.ch⟩
  | brightWrite _ _ result => exact ⟨absurd (result ▸ rfl), absurd (result ▸ rfl)⟩
  | sending k guard _ out => exact ⟨absurd out, fun _ => .inl ⟨k, guard⟩⟩
  | latches input guard result =>
    subst e t
    exact ⟨fun _ => .inl ⟨guard, .inl ⟨hhead, rfl⟩⟩, absurd rfl⟩
  | resets input result =>
    subst e t
    exact ⟨fun hne => .inl ⟨strobe_of_outAfterReset_ne hne, .inr hhead⟩, fun hne => .inl (xmit_of_chainAfterReset_ne hne)⟩
  | powersUp input =>
    subst e
    exact ⟨fun _ => .inr hhead, fun _ => .inr hhead⟩

/-! ### No command reads BRIGHT -/

/-- Settles O51, command by command: what each reads is FB, and BRIGHT stands beside it. -/
theorem commandsDoNotReadBright : Obligations.CommandsDoNotReadBright := by
  intro i s t v h
  cases i with
  | setpix l x on f =>
    obtain ⟨hl, hx, rfl⟩ := withPixel_eq_next h
    refine (withPixel_of_lt hl hx _).trans ?_
    cases f <;> rfl
  | getpix l x =>
    obtain ⟨hl, hx, rfl⟩ := withPixel_eq_next h
    exact withPixel_of_lt hl hx _
  | setrow l on =>
    obtain ⟨hl, rfl⟩ := withLayer_eq_next h
    exact withLayer_of_lt hl _
  | setcol x on =>
    obtain ⟨hx, rfl⟩ := withColumn_eq_next h
    exact withColumn_of_lt hx _
  | clr => cases h; rfl
  | inv => cases h; rfl
  | shr => cases h; rfl
  | shd => cases h; rfl
  | load => cases h; rfl
  | flush => cases h; rfl

end Sys2Proof.Machine
end

section
/-! PROOFS. The statement of spec/20_memory.md R36: the frame that a flush transmits is fixed, because the writes that could
change it hold until SER = IDLE. -/

namespace Sys2Proof.Machine

variable {s : State}

/-- While a flush runs, no CMD or DATA write is taken (42_host_access R80, R82). -/
theorem writeTaken_of_busy (hbusy : s.ser ≠ .idle) : writeTaken s = none := by
  refine Option.eq_none_iff_forall_ne_some.mpr fun p htaken => ?_
  obtain ⟨e, rest, u, -, hidle, -⟩ := takesWrite_of_writeTaken htaken
  exact hbusy hidle

/-- While a flush runs, no command executes. -/
theorem commandTaken_of_busy (hbusy : s.ser ≠ .idle) : commandTaken s = none := by
  rw [commandTaken, writeTaken_of_busy hbusy]

/-- Settles O45: of the three causes that can change FB, a flush excludes the command and the last payload byte. -/
theorem frameIsFixedDuringAFlush : Obligations.FrameIsFixedDuringAFlush := by
  intro s t hstep hbusy hreset
  by_contra hne
  rcases frameChangesOnlyByItsWriters s t hstep hne with ⟨i, hcommand, -⟩ | ⟨w, hdata, -⟩ | ⟨hresets, -⟩
  · exact absurd (hcommand.symm.trans (commandTaken_of_busy hbusy)) (Option.some_ne_none i)
  · exact absurd (hdata.symm.trans (writeTaken_of_busy hbusy)) (Option.some_ne_none _)
  · exact hreset hresets

end Sys2Proof.Machine
end

section
/-! PROOFS. The statements of spec/30_encoding.md: the rows of the opcode table are disjoint, decoder and encoder are inverse, the
illegal words are the reserved ones, the assembler's words, and the step of a CMD write. -/

namespace Sys2Proof.Machine

variable {s : State} {w : Word} {i : Instr} {r q : OpcodeRow}

/-! ### Fields of a word -/

/-- The bits of a field are the bits of its value, from `pos` on. -/
theorem getLsbD_fieldAt (v width pos j : Nat) :
    (fieldAt v width pos).getLsbD j = (decide (j < 16 ∧ pos ≤ j ∧ j < pos + width) && v.testBit (j - pos)) := by
  simp only [fieldAt, BitVec.getLsbD_shiftLeft, BitVec.getLsbD_setWidth, BitVec.getLsbD_ofNat]
  by_cases hpos : pos ≤ j
  · by_cases hj : j < 16
    · have hword : j - pos < 16 := by omega
      have hwidth : j - pos < width ↔ j < pos + width := by omega
      simp [hpos, hj, hword, hwidth]
    · simp [hj]
  · simp [hpos, Nat.lt_of_not_le hpos]

/-- A bit is a field of width 1. -/
theorem bitAt_eq_fieldAt (b : Bool) (pos : Nat) : bitAt b pos = fieldAt b.toNat 1 pos := by
  cases b <;> rfl

/-- A field that lies in the word reads back as its value. -/
theorem extractLsb'_fieldAt_self {width pos : Nat} (h : pos + width ≤ 16) (v : Nat) :
    (fieldAt v width pos).extractLsb' pos width = BitVec.ofNat width v := by
  refine BitVec.eq_of_getLsbD_eq fun j hj => ?_
  have hword : pos + j < 16 := by omega
  simp only [BitVec.getLsbD_extractLsb', getLsbD_fieldAt, BitVec.getLsbD_ofNat]
  simp [hj, hword]

/-- A field reads as 0 at other bits. -/
theorem extractLsb'_fieldAt_of_disjoint {width pos start len : Nat} (h : pos + width ≤ start ∨ start + len ≤ pos)
    (v : Nat) : (fieldAt v width pos).extractLsb' start len = 0#len := by
  refine BitVec.eq_of_getLsbD_eq fun j hj => ?_
  have hout : ¬(pos ≤ start + j ∧ start + j < pos + width) := by omega
  simp [getLsbD_fieldAt, hout]

/-- A field of `w`, put back in its place, is `w` under the mask of the field. -/
theorem fieldAt_extractLsb' (w : Word) (width pos : Nat) :
    fieldAt (w.extractLsb' pos width).toNat width pos = w &&& fieldAt (2 ^ width - 1) width pos := by
  refine BitVec.eq_of_getLsbD_eq fun j hj => ?_
  rw [BitVec.getLsbD_and, getLsbD_fieldAt, getLsbD_fieldAt, ← BitVec.getLsbD, BitVec.getLsbD_extractLsb',
    Nat.testBit_two_pow_sub_one]
  by_cases hin : pos ≤ j ∧ j < pos + width
  · have hwidth : j - pos < width := by omega
    have hindex : pos + (j - pos) = j := by omega
    simp [hj, hin, hwidth, hindex]
  · simp [hin]

theorem bitAt_getLsbD (w : Word) (pos : Nat) : bitAt (w.getLsbD pos) pos = w &&& bitAt true pos := by
  have hbit : (w.getLsbD pos).toNat = (w.extractLsb' pos 1).toNat := by
    rw [BitVec.extractLsb'_toNat, BitVec.getLsbD, Nat.toNat_testBit, Nat.shiftRight_eq_div_pow, pow_one]
  rw [bitAt_eq_fieldAt, bitAt_eq_fieldAt, hbit, fieldAt_extractLsb']
  rfl

/-- The bits of a field are zero exactly when the field reads as 0. -/
theorem and_fieldMask_eq_zero_iff {width pos : Nat} (h : pos + width ≤ 16) (w : Word) :
    w &&& fieldAt (2 ^ width - 1) width pos = 0 ↔ w.extractLsb' pos width = 0 := by
  rw [← fieldAt_extractLsb']
  constructor
  · intro hzero
    have hread := extractLsb'_fieldAt_self h (w.extractLsb' pos width).toNat
    rw [hzero, BitVec.ofNat_toNat, BitVec.setWidth_eq] at hread
    exact hread.symm.trans (by simp)
  · intro hzero
    simp [fieldAt, hzero]

/-! ### The rows of the opcode table -/

/-- `OP = w[15:12]` (30_encoding R41). -/
def opField (w : Word) : BitVec 4 := w.extractLsb' 12 4

theorem hits_iff : r.hits w = true ↔ w &&& r.mask = r.pattern := beq_iff_eq

/-- Every row fixes all of OP, and no other bit to 1 (30_encoding R43). -/
theorem row_fixes_op : ∀ r ∈ opcodeTable, r.mask &&& 0xF000 = 0xF000 ∧ r.pattern &&& 0xF000 = r.pattern := by
  decide

/-- "Their OP values differ" (30_encoding R44). -/
theorem ops_nodup : (opcodeTable.map fun r => opField r.pattern).Nodup := by
  decide

theorem opField_eq_iff {v w : Word} : opField v = opField w ↔ v &&& 0xF000 = w &&& 0xF000 := by
  have hplace (u : Word) : u &&& 0xF000 = fieldAt (opField u).toNat 4 12 := (fieldAt_extractLsb' u 4 12).symm
  have hread (u : Word) : opField (u &&& 0xF000) = opField u := by
    rw [hplace, opField, extractLsb'_fieldAt_self (by decide), BitVec.ofNat_toNat, BitVec.setWidth_eq]
  constructor
  · intro h
    rw [hplace, hplace, h]
  · intro h
    rw [← hread v, h, hread]

/-- A word matches a row exactly when it has the row's OP and its other fixed bits are zero. -/
theorem hits_iff_op (hr : r ∈ opcodeTable) :
    r.hits w = true ↔ opField w = opField r.pattern ∧ w &&& (r.mask &&& 0x0FFF) = 0 := by
  obtain ⟨hmask, hpattern⟩ := row_fixes_op r hr
  rw [hits_iff, opField_eq_iff, hpattern]
  constructor
  · intro h
    constructor
    · rw [← hmask, ← BitVec.and_assoc, h, hpattern]
    · rw [← BitVec.and_assoc, h, ← hpattern, BitVec.and_assoc]
      exact BitVec.and_zero
  · rintro ⟨hop, hrest⟩
    calc w &&& r.mask = w &&& (r.mask &&& 0xF000 ||| r.mask &&& 0x0FFF) := by
          rw [← BitVec.and_or_distrib_left]
          exact congrArg (w &&& ·) BitVec.and_allOnes.symm
      _ = r.pattern := by rw [hmask, BitVec.and_or_distrib_left, hop, hrest]; exact BitVec.or_zero

theorem row_eq_of_op (hr : r ∈ opcodeTable) (hq : q ∈ opcodeTable) (h : opField r.pattern = opField q.pattern) : r = q :=
  List.inj_on_of_nodup_map ops_nodup hr hq h

theorem op_of_hits (hr : r ∈ opcodeTable) (h : r.hits w = true) : opField w = opField r.pattern :=
  ((hits_iff_op hr).1 h).1

/-- A word matches one row at most. -/
theorem hits_unique (hr : r ∈ opcodeTable) (hq : q ∈ opcodeTable) (hrw : r.hits w = true) (hqw : q.hits w = true) :
    r = q :=
  row_eq_of_op hr hq ((op_of_hits hr hrw).symm.trans (op_of_hits hq hqw))

theorem countP_hits_le_one (w : Word) : opcodeTable.countP (·.hits w) ≤ 1 :=
  calc opcodeTable.countP (·.hits w)
      ≤ opcodeTable.countP (fun r => opField r.pattern == opField w) :=
        List.countP_mono_left fun r hr hrw => beq_iff_eq.2 (op_of_hits hr hrw).symm
    _ = (opcodeTable.map fun r => opField r.pattern).count (opField w) := by
        rw [List.count_eq_countP, List.countP_map]
        rfl
    _ ≤ 1 := List.nodup_iff_count_le_one.1 ops_nodup _

/-! ### The decoder by its rows -/

theorem decode_of_hits (hr : r ∈ opcodeTable) (h : r.hits w = true) : decode w = .legal (r.command w) := by
  unfold decode
  cases hfind : opcodeTable.find? (·.hits w) with
  | some q => rw [hits_unique (List.mem_of_find?_eq_some hfind) hr (by simpa using List.find?_some hfind) h]
  | none => exact absurd h (List.find?_eq_none.1 hfind r hr)

theorem decode_illegal_iff : decode w = .illegal w ↔ ∀ r ∈ opcodeTable, r.hits w = false := by
  constructor
  · intro h r hr
    by_contra hhit
    rw [decode_of_hits hr (Bool.of_not_eq_false hhit)] at h
    cases h
  · intro h
    have hfind : opcodeTable.find? (·.hits w) = none := List.find?_eq_none.2 fun r hr => by simp [h r hr]
    rw [decode, hfind]

/-- Settles O3: OP tells the rows apart, so the row that the decoder finds is the only one. -/
theorem atMostOneRowMatchesAWord : Obligations.AtMostOneRowMatchesAWord := fun w =>
  ⟨countP_hits_le_one w, fun _ hr h => decode_of_hits hr (hits_iff.2 h),
    fun h => decode_illegal_iff.2 fun r hr => beq_eq_false_iff_ne.2 (h r hr)⟩

/-! ### Decoder and encoder -/

/-- The encoding of a row's command: the row's fixed bits, and the word's own bits elsewhere (30_encoding R43). -/
theorem encode_command (hr : r ∈ opcodeTable) (w : Word) : encode (r.command w) = r.pattern ||| (w &&& ~~~r.mask) := by
  have hnone : w &&& ~~~(0xFFFF : Word) = 0#16 := BitVec.and_zero
  simp only [opcodeTable, List.mem_cons, List.not_mem_nil, or_false] at hr
  rcases hr with rfl | rfl | rfl | rfl | rfl | rfl | rfl | rfl | rfl | rfl
  all_goals
    simp only [encode, fieldL, fieldX, fieldOn, fieldF, fieldAt_extractLsb', bitAt_getLsbD, BitVec.or_assoc,
      ← BitVec.and_or_distrib_left, hnone, BitVec.or_zero]
  -- What is left of each format with operands: its fields cover the bits that its row does not fix.
  all_goals rfl

/-- Settles O2: under the mask of the row the word is the row's pattern, and the fields hold the rest of it. -/
theorem encodeOfDecodeIsTheWord : Obligations.EncodeOfDecodeIsTheWord := by
  intro w i h
  refine ⟨decode_wellFormed h, ?_⟩
  obtain ⟨r, hr, hhit, rfl⟩ := decode_legal_row h
  calc encode (r.command w) = w &&& r.mask ||| w &&& ~~~r.mask := by rw [encode_command hr, hits_iff.1 hhit]
    _ = w := by rw [← BitVec.and_or_distrib_left, BitVec.or_not_self, BitVec.and_allOnes]

/-- The word with these values of OP, L, X, ON and F, and bit 0 zero (30_encoding R41, R42). -/
def fieldsWord (op l x : Nat) (on f : Bool) : Word :=
  fieldAt op 4 12 ||| fieldAt l 4 8 ||| fieldAt x 5 3 ||| bitAt on 2 ||| bitAt f 1

section Fields

variable (op l x : Nat) (on f : Bool)

theorem fieldAt_zero (width pos : Nat) : fieldAt 0 width pos = 0#16 := by
  simp [fieldAt]

theorem bitAt_false (pos : Nat) : bitAt false pos = 0#16 := by
  rw [bitAt_eq_fieldAt]
  exact fieldAt_zero 1 pos

/-! A format that lacks a field has zeros in its place (30_encoding R41). -/

theorem encode_setpix : encode (.setpix l x on f) = fieldsWord 2 l x on f := rfl

theorem encode_getpix : encode (.getpix l x) = fieldsWord 3 l x false false := by
  simp only [fieldsWord, bitAt_false, BitVec.or_zero]
  rfl

theorem encode_setrow : encode (.setrow l on) = fieldsWord 4 l 0 on false := by
  simp only [fieldsWord, fieldAt_zero, bitAt_false, BitVec.or_zero]
  rfl

theorem encode_setcol : encode (.setcol x on) = fieldsWord 5 0 x on false := by
  simp only [fieldsWord, fieldAt_zero, bitAt_false, BitVec.or_zero]
  rfl

@[simp] theorem fieldL_fieldsWord : fieldL (fieldsWord op l x on f) = l % 16 := by
  simp (disch := decide) only [fieldL, fieldsWord, bitAt_eq_fieldAt, BitVec.extractLsb'_or, extractLsb'_fieldAt_self,
    extractLsb'_fieldAt_of_disjoint, BitVec.or_zero, BitVec.zero_or, BitVec.toNat_ofNat, Nat.reducePow]

@[simp] theorem fieldX_fieldsWord : fieldX (fieldsWord op l x on f) = x % 32 := by
  simp (disch := decide) only [fieldX, fieldsWord, bitAt_eq_fieldAt, BitVec.extractLsb'_or, extractLsb'_fieldAt_self,
    extractLsb'_fieldAt_of_disjoint, BitVec.or_zero, BitVec.zero_or, BitVec.toNat_ofNat, Nat.reducePow]

@[simp] theorem fieldOn_fieldsWord : fieldOn (fieldsWord op l x on f) = on := by
  simp only [fieldOn, fieldsWord, bitAt_eq_fieldAt, BitVec.getLsbD_or, getLsbD_fieldAt]
  cases on <;> simp

@[simp] theorem fieldF_fieldsWord : fieldF (fieldsWord op l x on f) = f := by
  simp only [fieldF, fieldsWord, bitAt_eq_fieldAt, BitVec.getLsbD_or, getLsbD_fieldAt]
  cases f <;> simp

end Fields

/-- An encoded well-formed command matches a row of the opcode table, and the row reads the command back. -/
theorem row_of_encode (hi : i.wellFormed = true) :
    ∃ r ∈ opcodeTable, r.hits (encode i) = true ∧ r.command (encode i) = i := by
  cases i with
  | clr => exact ⟨opcodeTable[0], List.getElem_mem _, rfl, rfl⟩
  | setpix l x on f =>
    obtain ⟨hl, hx⟩ : l < 16 ∧ x < 32 := by simpa [Instr.wellFormed] using hi
    refine ⟨opcodeTable[1], List.getElem_mem _, hits_iff.2 (Laws.EncodeMatchesRow.setpix l x on f), ?_⟩
    simp [opcodeTable, encode_setpix, Nat.mod_eq_of_lt hl, Nat.mod_eq_of_lt hx]
  | getpix l x =>
    obtain ⟨hl, hx⟩ : l < 16 ∧ x < 32 := by simpa [Instr.wellFormed] using hi
    refine ⟨opcodeTable[2], List.getElem_mem _, hits_iff.2 (Laws.EncodeMatchesRow.getpix l x), ?_⟩
    simp [opcodeTable, encode_getpix, Nat.mod_eq_of_lt hl, Nat.mod_eq_of_lt hx]
  | setrow l on =>
    refine ⟨opcodeTable[3], List.getElem_mem _, hits_iff.2 (Laws.EncodeMatchesRow.setrow l on), ?_⟩
    simp [opcodeTable, encode_setrow, Nat.mod_eq_of_lt (of_decide_eq_true hi)]
  | setcol x on =>
    refine ⟨opcodeTable[4], List.getElem_mem _, hits_iff.2 (Laws.EncodeMatchesRow.setcol x on), ?_⟩
    simp [opcodeTable, encode_setcol, Nat.mod_eq_of_lt (of_decide_eq_true hi)]
  | inv => exact ⟨opcodeTable[5], List.getElem_mem _, rfl, rfl⟩
  | shr => exact ⟨opcodeTable[6], List.getElem_mem _, rfl, rfl⟩
  | shd => exact ⟨opcodeTable[7], List.getElem_mem _, rfl, rfl⟩
  | load => exact ⟨opcodeTable[8], List.getElem_mem _, rfl, rfl⟩
  | flush => exact ⟨opcodeTable[9], List.getElem_mem _, rfl, rfl⟩

/-- Settles O1: the encoded word matches the command's row, and the decoder answers the row that a word matches. -/
theorem decodeOfEncodeIsTheCommand : Obligations.DecodeOfEncodeIsTheCommand := by
  intro i hi
  obtain ⟨r, hr, hhit, hread⟩ := row_of_encode hi
  rw [decode_of_hits hr hhit, hread]

/-- Settles O5, by running the decoder on the eleven words. -/
theorem sampleWordsDecodeAsTheFormatsSay : Obligations.SampleWordsDecodeAsTheFormatsSay :=
  ⟨rfl, rfl, rfl, rfl, rfl, rfl, rfl, rfl, rfl, rfl, rfl⟩

/-! ### The illegal words -/

/-- A word with the OP of a row is illegal exactly when a bit that the row fixes below OP is not zero. -/
theorem decode_illegal_iff_of_op (hr : r ∈ opcodeTable) (hop : opField w = opField r.pattern) :
    decode w = .illegal w ↔ w &&& (r.mask &&& 0x0FFF) ≠ 0 := by
  rw [decode_illegal_iff]
  constructor
  · intro h hzero
    exact absurd ((hits_iff_op hr).2 ⟨hop, hzero⟩) (by simp [h r hr])
  · intro hne q hq
    by_contra hhit
    obtain ⟨hqop, hzero⟩ := (hits_iff_op hq).1 (Bool.of_not_eq_false hhit)
    obtain rfl := row_eq_of_op hq hr (hqop.symm.trans hop)
    exact hne hzero

theorem field_ne_zero_iff {width pos : Nat} (h : pos + width ≤ 16) :
    (w.extractLsb' pos width != 0) = true ↔ w &&& fieldAt (2 ^ width - 1) width pos ≠ 0 := by
  rw [bne_iff_ne, Ne, Ne, and_fieldMask_eq_zero_iff h]

theorem and_or_ne_zero_iff {v u : Word} : w &&& (v ||| u) ≠ 0 ↔ w &&& v ≠ 0 ∨ w &&& u ≠ 0 := by
  rw [BitVec.and_or_distrib_left, ← not_and_or]
  exact not_congr BitVec.or_eq_zero_iff

/-- The bits that a format reserves are those that its rows fix below OP (30_encoding R41, R43). -/
theorem reservedWord_iff_of_op (hr : r ∈ opcodeTable) (hop : opField w = opField r.pattern) :
    reservedWord w = true ↔ w &&& (r.mask &&& 0x0FFF) ≠ 0 := by
  have hZ : (w.extractLsb' 0 12 != 0) = true ↔ w &&& 0x0FFF ≠ 0 := field_ne_zero_iff (by decide)
  have hP : w.getLsbD 0 = true ↔ w &&& 0x0001 ≠ 0 := by
    rw [show (0x0001 : Word) = bitAt true 0 from rfl, ← bitAt_getLsbD]
    cases w.getLsbD 0 <;> decide
  have hG : (w.extractLsb' 0 3 != 0) = true ↔ w &&& 0x0007 ≠ 0 := field_ne_zero_iff (by decide)
  have hW : (w.extractLsb' 3 5 != 0 || w.extractLsb' 0 2 != 0) = true ↔ w &&& 0x00FB ≠ 0 := by
    rw [Bool.or_eq_true, field_ne_zero_iff (by decide), field_ne_zero_iff (by decide), ← and_or_ne_zero_iff]
    rfl
  have hC : (w.extractLsb' 8 4 != 0 || w.extractLsb' 0 2 != 0) = true ↔ w &&& 0x0F03 ≠ 0 := by
    rw [Bool.or_eq_true, field_ne_zero_iff (by decide), field_ne_zero_iff (by decide), ← and_or_ne_zero_iff]
    rfl
  have hnat : (w.extractLsb' 12 4).toNat = (opField r.pattern).toNat := congrArg BitVec.toNat hop
  rw [reservedWord, hnat]
  simp only [opcodeTable, List.mem_cons, List.not_mem_nil, or_false] at hr
  rcases hr with rfl | rfl | rfl | rfl | rfl | rfl | rfl | rfl | rfl | rfl
  exacts [hZ, hP, hG, hW, hC, hZ, hZ, hZ, hZ, hZ]

/-- An OP that no row has is reserved (30_encoding R45). -/
theorem reservedWord_of_op (h : ∀ r ∈ opcodeTable, opField w ≠ opField r.pattern) : reservedWord w = true := by
  have hnot : (w.extractLsb' 12 4).toNat ∉ opcodeTable.map fun r => (opField r.pattern).toNat := fun hmem => by
    obtain ⟨r, hr, hnat⟩ := List.mem_map.1 hmem
    exact h r hr (BitVec.eq_of_toNat_eq hnat.symm)
  change _ ∉ [1, 2, 3, 4, 5, 6, 7, 8, 9, 10] at hnot
  unfold reservedWord
  split
  case h_11 => rfl
  all_goals next heq => simp [heq] at hnot

/-- Settles O4: the OP is that of a row, and then both sides say that a bit the row fixes is not zero, or it is reserved. -/
theorem illegalWordsAreTheReservedOnes : Obligations.IllegalWordsAreTheReservedOnes := by
  intro w
  by_cases hop : ∃ r ∈ opcodeTable, opField w = opField r.pattern
  · obtain ⟨r, hr, hop⟩ := hop
    rw [decode_illegal_iff_of_op hr hop, reservedWord_iff_of_op hr hop]
  · have hne : ∀ r ∈ opcodeTable, opField w ≠ opField r.pattern := fun r hr heq => hop ⟨r, hr, heq⟩
    have hnone : ∀ r ∈ opcodeTable, r.hits w = false := fun r hr =>
      Bool.eq_false_iff.2 fun hhit => hne r hr (op_of_hits hr hhit)
    exact iff_of_true (decode_illegal_iff.2 hnone) (reservedWord_of_op hne)

/-! ### The assembler -/

theorem ofNat_shiftLeft_eq_fieldAt {v width : Nat} (h : v < 2 ^ width) (pos : Nat) :
    BitVec.ofNat 16 (v <<< pos) = fieldAt v width pos := by
  refine BitVec.eq_of_toNat_eq ?_
  simp [fieldAt, Nat.mod_eq_of_lt h, Nat.shiftLeft_eq]

/-- The bit that an ON operand stands for. -/
theorem ofNat_shiftLeft_eq_bitAt {on : Nat} (h : on < 2) (pos : Nat) : BitVec.ofNat 16 (on <<< pos) = bitAt (on == 1) pos := by
  have hon : (on == 1).toNat = on := by interval_cases on <;> rfl
  rw [bitAt_eq_fieldAt, hon]
  exact ofNat_shiftLeft_eq_fieldAt h pos

theorem ofNat_toNat_shiftLeft (b : Bool) (pos : Nat) : BitVec.ofNat 16 (b.toNat <<< pos) = bitAt b pos := by
  rw [bitAt_eq_fieldAt]
  exact ofNat_shiftLeft_eq_fieldAt b.toNat_lt pos

theorem pixelOperands_iff {l x on : Nat} : pixelOperands l x on = true ↔ l < 16 ∧ x < 32 ∧ on < 2 := by
  simp [pixelOperands, and_assoc]

/-- With its operands in range a line is one CMD write (30_encoding R48). -/
theorem line_of_inRange {l x on v : Nat} (h : l < 16 ∧ x < 32 ∧ on < 2) (hv : BitVec.ofNat 16 v = w) :
    lineIf (pixelOperands l x on) .cmd v = some [.host (.write 0 w)] := by
  rw [lineIf, if_pos (pixelOperands_iff.2 h), writeReg, hv]
  rfl

/-- With an operand out of range a line is an assembly error (30_encoding R48). -/
theorem line_of_outOfRange {l x on v : Nat} (h : ¬(l < 16 ∧ x < 32 ∧ on < 2)) :
    lineIf (pixelOperands l x on) .cmd v = none :=
  if_neg fun hok => h (pixelOperands_iff.1 hok)

/-- Settles O6: `|` and `<<` of the table are those of the formats, and a line is its one word or nothing by its operands. -/
theorem assemblerLinesEncodeTheirCommands : Obligations.AssemblerLinesEncodeTheirCommands := by
  intro l x on f
  refine ⟨fun hl hx hon => ?_, ?_, ?_, ?_, ?_⟩
  · have hL : BitVec.ofNat 16 (l <<< 8) = fieldAt l 4 8 := ofNat_shiftLeft_eq_fieldAt hl 8
    have hX : BitVec.ofNat 16 (x <<< 3) = fieldAt x 5 3 := ofNat_shiftLeft_eq_fieldAt hx 3
    have hOn := ofNat_shiftLeft_eq_bitAt hon 2
    have hF := ofNat_toNat_shiftLeft f 1
    refine ⟨line_of_inRange ⟨hl, hx, hon⟩ ?_, line_of_inRange ⟨hl, hx, by decide⟩ ?_,
      line_of_inRange ⟨hl, by decide, hon⟩ ?_, line_of_inRange ⟨by decide, hx, hon⟩ ?_⟩
    all_goals
      simp only [setpixWord, BitVec.ofNat_or, hL, hX, hOn, hF]
      rfl
  · exact line_of_outOfRange
  · exact fun h => line_of_outOfRange fun ⟨hl, hx, _⟩ => h ⟨hl, hx⟩
  · exact fun h => line_of_outOfRange fun ⟨hl, _, hon⟩ => h ⟨hl, hon⟩
  · exact fun h => line_of_outOfRange fun ⟨_, hx, hon⟩ => h ⟨hx, hon⟩

/-! ### The step of a CMD write -/

/-- The state at decoding, field by field (42_host_access R81). -/
theorem atDecode_eq (s : State) :
    atDecode s =
      { s with
        ldp := false, ldcnt := if s.ldp then 0 else s.ldcnt,
        err := if s.ldp ∧ s.err = .noError then .loadAbandoned else s.err } := by
  cases hldp : s.ldp with
  | false =>
    rw [atDecode_of_not_ldp hldp]
    cases s
    cases hldp
    rfl
  | true => simp [atDecode, hldp, loadAbandon, raiseError]

/-- A CMD write that does not hold is taken in its step. -/
theorem step_cmd_write {rest : List Input} (hi : s.inputs = .host (.write 0 w) :: rest) (hser : s.ser = .idle)
    (hheld : s.held = none) : step s = cmdWrite w { s with inputs := rest } := by
  have taken : TakesWrite (.host (.write 0 w)) { s with inputs := rest } (.cmd w) { s with inputs := rest } :=
    ⟨hser, .inl ⟨hheld, rfl, rfl⟩⟩
  exact (step_cons hi).trans taken.takeInput_eq

theorem cmdWrite_of_legal (h : decode w = .legal i) (s : State) : cmdWrite w s = exec i (atDecode s) := by
  simp [cmdWrite, h, atDecode]

theorem cmdWrite_of_illegal (h : decode w = .illegal w) (s : State) :
    cmdWrite w s = .next (raiseError .illegalCommand (atDecode s)) := by
  simp [cmdWrite, h, atDecode]

/-- Settles O7: the write is taken, and the state in which its word is decoded is the one that R81 describes. -/
theorem stepRunsTheDecodedCommand : Obligations.StepRunsTheDecodedCommand := by
  intro s u w rest hi hser hheld hu
  have hu' : u = atDecode { s with inputs := rest } := by rw [hu, atDecode_eq]
  rw [step_cmd_write hi hser hheld, hu']
  exact ⟨fun i h => cmdWrite_of_legal h _, fun h => cmdWrite_of_illegal h _⟩

/-- Settles O8: the word is illegal, and IllegalCommand is recorded after the error of an abandoned LOAD. -/
theorem reservedWordOnlyRaisesIllegalCommand : Obligations.ReservedWordOnlyRaisesIllegalCommand := by
  intro s w rest hi hser hheld hreserved
  have hillegal := (illegalWordsAreTheReservedOnes w).2 hreserved
  rw [(stepRunsTheDecodedCommand s _ w rest hi hser hheld rfl).2 hillegal]
  by_cases herr : s.err = .noError
  · cases hldp : s.ldp <;> simp [herr]
  · simp [herr]

end Sys2Proof.Machine
end

section
/-! PROOFS. The statements of spec/40_framebuffer.md: what each frame-buffer command does, the algebra of the commands, LOAD and
its payload, and the fields that a command may write. -/

namespace Sys2Proof.Machine

variable {s t u : State} {i j : Instr}

/-! ### The words of the commands with operands -/

/-- The word of the formats as a number (30_encoding R41, R48). -/
theorem fieldsWord_eq_ofNat {op l x : Nat} (hop : op < 16) (hl : l < 16) (hx : x < 32) (on f : Bool) :
    fieldsWord op l x on f = BitVec.ofNat 16 (4096 * op + 256 * l + 8 * x + 4 * on.toNat + 2 * f.toNat) := by
  have hon := on.toNat_lt
  have hf := f.toNat_lt
  have hor : op <<< 12 ||| (l <<< 8 ||| (x <<< 3 ||| (on.toNat <<< 2 ||| f.toNat <<< 1))) =
      4096 * op + 256 * l + 8 * x + 4 * on.toNat + 2 * f.toNat := by
    simp (disch := omega) only [← Nat.shiftLeft_add_eq_or_of_lt]
    omega
  simp only [← hor, BitVec.ofNat_or, ofNat_toNat_shiftLeft, ofNat_shiftLeft_eq_fieldAt (width := 4) hop,
    ofNat_shiftLeft_eq_fieldAt (width := 4) hl, ofNat_shiftLeft_eq_fieldAt (width := 5) hx, fieldsWord, BitVec.or_assoc]

/-- A word given by the values of its fields decodes to the command with those fields. -/
theorem decode_ofNat {op l x n : Nat} {on f : Bool} (hi : i.wellFormed = true) (he : encode i = fieldsWord op l x on f)
    (hop : op < 16) (hl : l < 16) (hx : x < 32)
    (hn : n = 4096 * op + 256 * l + 8 * x + 4 * on.toNat + 2 * f.toNat) :
    decode (BitVec.ofNat 16 n) = .legal i := by
  rw [hn, ← fieldsWord_eq_ofNat hop hl hx, ← he]
  exact decodeOfEncodeIsTheCommand i hi

/-! ### The grid -/

/-- The pixels of the 16 rows of 32 (00_scope R10). -/
abbrev Grid := Fin 16 → Fin 32 → Bool

/-- The grid that the frame buffer holds. -/
def pixels (s : State) : Grid := fun l x => pix s l x

theorem pixels_apply (s : State) (l : Fin 16) (x : Fin 32) :
    pixels s l x = (fbByte s (pixelAddr l x)).getLsbD (x % 8) := rfl

/-- Bit i of a byte is a pixel of its row (10_state R13). -/
theorem fbByte_getLsbD (s : State) (a : Nat) {i : Nat} (hi : i < 8) :
    (fbByte s a).getLsbD i = pix s (a / 4) (8 * (a % 4) + i) := by
  have haddr : pixelAddr (a / 4) (8 * (a % 4) + i) = a := by
    unfold pixelAddr
    omega
  have hbit : pixelBit (8 * (a % 4) + i) = i := by
    unfold pixelBit
    omega
  rw [pix, haddr, hbit]

/-- Bytes whose eight pixels agree are equal. -/
theorem fbByte_eq_of_pix {a : Nat}
    (h : ∀ i < 8, pix t (a / 4) (8 * (a % 4) + i) = pix s (a / 4) (8 * (a % 4) + i)) : fbByte t a = fbByte s a := by
  refine BitVec.eq_of_getLsbD_eq fun i hi => ?_
  rw [fbByte_getLsbD t a hi, fbByte_getLsbD s a hi, h i hi]

/-- A pixel is a bit of its row's value (20_memory R28). -/
theorem rowval_getLsbD_eq_pix (s : State) (l : Nat) {x : Nat} (hx : x < 32) : (rowval s l).getLsbD x = pix s l x :=
  rowval_getLsbD s l hx

theorem pixelAddr_div (l : Nat) {x : Nat} (hx : x < 32) : pixelAddr l x / 4 = l := by
  unfold pixelAddr
  omega

theorem pixelAddr_mod (l : Nat) {x : Nat} (hx : x < 32) : pixelAddr l x % 4 = x / 8 := by
  unfold pixelAddr
  omega

/-- The state `t` is `s` with the grid `p` in its frame buffer, and nothing else changed. -/
structure Shows (p : Grid) (s t : State) : Prop where
  frame : onlyFrameDiffers s t
  memory : t.fb.wf
  grid : pixels t = p

theorem Shows.pix {p : Grid} (h : Shows p s t) {l x : Nat} (hl : l < 16) (hx : x < 32) :
    pix t l x = p ⟨l, hl⟩ ⟨x, hx⟩ :=
  congrFun (congrFun h.grid ⟨l, hl⟩) ⟨x, hx⟩

/-- The grid determines the state. -/
theorem Shows.unique {p : Grid} (ht : Shows p s t) (hu : Shows p s u) : t = u := by
  have hbyte (a : Nat) (ha : a < 64) : fbByte t a = fbByte u a := fbByte_eq_of_pix fun i hi => by
    rw [ht.pix (by omega) (by omega), hu.pix (by omega) (by omega)]
  calc t = { s with fb := t.fb } := ht.frame
    _ = { s with fb := u.fb } := by rw [wf_ext ht.memory hu.memory hbyte]
    _ = u := hu.frame.symm

theorem Shows.trans {p q : Grid} (ht : Shows p s t) (hu : Shows q t u) : Shows q s u where
  frame := by
    rw [onlyFrameDiffers, hu.frame, ht.frame]
  memory := hu.memory
  grid := hu.grid

theorem Shows.self (h : s.fb.wf) : Shows (pixels s) s s := ⟨rfl, h, rfl⟩

/-- A whole-frame write shows the grid whose pixels are the bits of its bytes. -/
theorem shows_setFrame {p : Grid} {f : Nat → Byte}
    (h : ∀ (l : Fin 16) (x : Fin 32), (f (pixelAddr l x)).getLsbD (x % 8) = p l x) : Shows p s (setFrame f s) where
  frame := rfl
  memory := setFrame_wf f s
  grid := funext fun l => funext fun x => by
    rw [pixels_apply, fbByte_setFrame f s (pixelAddr_lt l.isLt x.isLt), h]

/-! ### Commands as maps of the grid -/

theorem execSeq_singleton (i : Instr) (s : State) : execSeq [i] s = exec i s := by
  rw [execSeq]
  cases exec i s <;> rfl

theorem execSeq_append {is : List Instr} (js : List Instr) (h : execSeq is s = .next t) :
    execSeq (is ++ js) s = execSeq js t := by
  induction is generalizing s with
  | nil =>
    cases h
    rfl
  | cons i is ih =>
    rw [List.cons_append, execSeq]
    rw [execSeq] at h
    cases hi : exec i s with
    | next v =>
      rw [hi] at h
      exact ih h
    | fault r =>
      rw [hi] at h
      cases h
    | refused r =>
      rw [hi] at h
      cases h

/-- A sequence that begins with a fault is that fault. -/
theorem execSeq_cons_fault {r : Fault} (is : List Instr) (h : exec i s = .fault r) : execSeq (i :: is) s = .fault r := by
  rw [execSeq, h]

/-- In every state the commands answer the one whose grid is `g` of the old grid, and change nothing else. -/
def Redraws (is : List Instr) (g : Grid → Grid) : Prop :=
  ∀ s : State, ∃ t, execSeq is s = .next t ∧ Shows (g (pixels s)) s t

theorem Redraws.append {is js : List Instr} {g h : Grid → Grid} (hg : Redraws is g) (hh : Redraws js h) :
    Redraws (is ++ js) (h ∘ g) := by
  intro s
  obtain ⟨t, hrun, hshows⟩ := hg s
  obtain ⟨u, hrun', hshows'⟩ := hh t
  rw [hshows.grid] at hshows'
  exact ⟨u, (execSeq_append js hrun).trans hrun', hshows.trans hshows'⟩

theorem Redraws.replicate {g : Grid → Grid} (h : Redraws [i] g) (n : Nat) :
    Redraws (List.replicate (n + 1) i) g^[n + 1] := by
  induction n with
  | zero => exact h
  | succ n ih => exact h.append ih

/-- Sequences that make the same map of the grid answer the same outcome. -/
theorem Redraws.execSeq_eq {is js : List Instr} {g h : Grid → Grid} (hg : Redraws is g) (hh : Redraws js h)
    (heq : g = h) (s : State) : execSeq is s = execSeq js s := by
  subst heq
  obtain ⟨t, hrun, hshows⟩ := hg s
  obtain ⟨u, hrun', hshows'⟩ := hh s
  rw [hrun, hrun', hshows.unique hshows']

/-- A sequence that keeps the grid keeps the state. -/
theorem Redraws.execSeq_self {is : List Instr} {g : Grid → Grid} (hg : Redraws is g) (hid : g = id) (h : s.fb.wf) :
    execSeq is s = .next s := by
  subst hid
  obtain ⟨t, hrun, hshows⟩ := hg s
  rw [hrun, hshows.unique (Shows.self h)]

/-- A command that writes the whole frame redraws the grid by the bits of the bytes it writes. -/
theorem redraws_of_setFrame {f : State → Nat → Byte} {g : Grid → Grid} (hrun : ∀ s, exec i s = .next (setFrame (f s) s))
    (hbits : ∀ (s : State) (l : Fin 16) (x : Fin 32), (f s (pixelAddr l x)).getLsbD (x % 8) = g (pixels s) l x) :
    Redraws [i] g := fun s =>
  ⟨_, (execSeq_singleton i s).trans (hrun s), shows_setFrame (hbits s)⟩

/-- The grid with pixel (l, x) set to `on` where `region l x` holds. -/
def paint (region : Fin 16 → Fin 32 → Bool) (on : Bool) (p : Grid) : Grid := fun l x => if region l x then on else p l x

theorem paint_paint (region : Fin 16 → Fin 32 → Bool) (on : Bool) :
    paint region on ∘ paint region on = paint region on := by
  funext p l x
  simp only [Function.comp, paint]
  split <;> rfl

/-- The grid whose pixel (l, x) is the old pixel (f l, g x). -/
def move (f : Fin 16 → Fin 16) (g : Fin 32 → Fin 32) (p : Grid) : Grid := fun l x => p (f l) (g x)

theorem move_iterate (f : Fin 16 → Fin 16) (g : Fin 32 → Fin 32) (n : Nat) : (move f g)^[n] = move f^[n] g^[n] := by
  induction n with
  | zero => rfl
  | succ n ih =>
    rw [Function.iterate_succ', ih, Function.iterate_succ, Function.iterate_succ]
    rfl

theorem redraws_clr : Redraws [.clr] (fun _ _ _ => false) :=
  redraws_of_setFrame (fun _ => rfl) fun _ _ _ => BitVec.getLsbD_zero

theorem redraws_inv : Redraws [.inv] (fun p l x => !p l x) :=
  redraws_of_setFrame (fun _ => rfl) fun s l x => by
    simp [pixels_apply, Nat.mod_lt]

/-- Bit i of the rotated value is bit (i + 1) mod 32 (40_framebuffer R59). -/
theorem ror1_getLsbD (r : RowValue) {i : Nat} (hi : i < 32) : (ror1 r).getLsbD i = r.getLsbD ((i + 1) % 32) := by
  by_cases hlast : i = 31
  · subst hlast
    simp [ror1]
  · have hmod : (i + 1) % 32 = 1 + i := by omega
    have hlt : i < 31 := by omega
    simp [ror1, hmod, hlt]

/-- SHR moves every pixel one place down its row, pixel 0 to pixel 31. -/
theorem redraws_shr : Redraws [.shr] (move id (· + 1)) :=
  redraws_of_setFrame (fun _ => rfl) fun s l x => by
    have hbit : 8 * (x.val / 8) + x.val % 8 = x.val := Nat.div_add_mod x.val 8
    rw [pixelAddr_div l x.isLt, pixelAddr_mod l x.isLt, BitVec.getLsbD_extractLsb', hbit, ror1_getLsbD _ x.isLt,
      rowval_getLsbD_eq_pix s l (Nat.mod_lt _ (by decide))]
    simp [move, pixels, Fin.val_add, Nat.mod_lt]

/-- SHD moves every row one layer down, row 15 to row 0. -/
theorem redraws_shd : Redraws [.shd] (move (· + 15) id) :=
  redraws_of_setFrame (fun _ => rfl) fun s l x => by
    rw [pixelAddr_div l x.isLt, pixelAddr_mod l x.isLt]
    rfl

theorem exec_setrow {l : Nat} (hl : l < 16) (on : Bool) (s : State) :
    exec (.setrow l on) s = .next (setFrame (fun a => if a / 4 = l then rowFill on else fbByte s a) s) :=
  withLayer_of_lt hl _

theorem exec_setcol {x : Nat} (hx : x < 32) (on : Bool) (s : State) :
    exec (.setcol x on) s =
      .next (setFrame (fun a => if a % 4 = x / 8 then putPixel x on (fbByte s a) else fbByte s a) s) :=
  withColumn_of_lt hx _

/-- SETPIX writes one byte, and F = 1 puts byte 0 on the bus after it (40_framebuffer R53). -/
theorem exec_setpix {l x : Nat} (hl : l < 16) (hx : x < 32) (on f : Bool) (s : State) :
    exec (.setpix l x on f) s = .next { setPixel l x on s with ser := if f then .xmit 0 else s.ser } := by
  refine (withPixel_of_lt hl hx _).trans ?_
  cases f <;> rfl

theorem exec_getpix {l x : Nat} (hl : l < 16) (hx : x < 32) (s : State) :
    exec (.getpix l x) s = .next (recordPixel (pix s l x) s) :=
  withPixel_of_lt hl hx _

theorem rowFill_getLsbD (on : Bool) {i : Nat} (hi : i < 8) : (rowFill on).getLsbD i = on := by
  cases on with
  | false => exact BitVec.getLsbD_zero
  | true => exact BitVec.getLsbD_allOnes.trans (decide_eq_true hi)

theorem redraws_setrow {l : Nat} (hl : l < 16) (on : Bool) :
    Redraws [.setrow l on] (paint (fun k _ => k = ⟨l, hl⟩) on) :=
  redraws_of_setFrame (exec_setrow hl on) fun s k x => by
    rw [pixelAddr_div k x.isLt]
    by_cases hk : k.val = l
    · rw [if_pos hk, rowFill_getLsbD on (Nat.mod_lt _ (by decide)), paint, if_pos (by simp [Fin.ext_iff, hk])]
    · simp [paint, hk, Fin.ext_iff, pixels_apply]

/-- The addressed bit of a written byte is the pixel written; in the byte of pixel x no other pixel changes. -/
theorem putPixel_getLsbD_mod {x y : Nat} (h : y / 8 = x / 8) (on : Bool) (v : Byte) :
    (putPixel x on v).getLsbD (y % 8) = if y = x then on else v.getLsbD (y % 8) := by
  have hxy : y % 8 = x % 8 ↔ y = x := by omega
  rw [putPixel_bit x on v _ (Nat.mod_lt _ (by decide))]
  simp only [hxy]

theorem redraws_setcol {x : Nat} (hx : x < 32) (on : Bool) :
    Redraws [.setcol x on] (paint (fun _ y => y = ⟨x, hx⟩) on) :=
  redraws_of_setFrame (exec_setcol hx on) fun s l y => by
    rw [pixelAddr_mod l y.isLt]
    by_cases hbyte : y.val / 8 = x / 8
    · simp [paint, hbyte, putPixel_getLsbD_mod, Fin.ext_iff, pixels_apply]
    · have hne : y.val ≠ x := fun h => hbyte (by rw [h])
      simp [paint, hbyte, hne, Fin.ext_iff, pixels_apply]

theorem redraws_setpix {l x : Nat} (hl : l < 16) (hx : x < 32) (on : Bool) :
    Redraws [.setpix l x on false] (paint (fun k y => k = ⟨l, hl⟩ ∧ y = ⟨x, hx⟩) on) :=
  redraws_of_setFrame
    (f := fun s a => if a = pixelAddr l x then putPixel x on (fbByte s (pixelAddr l x)) else fbByte s a)
    (exec_setpix hl hx on false) fun s k y => by
    by_cases hbyte : k.val = l ∧ y.val / 8 = x / 8
    · obtain ⟨hk, hy⟩ := hbyte
      have haddr : pixelAddr k y = pixelAddr l x := by rw [pixelAddr, pixelAddr, hk, hy]
      rw [if_pos haddr, ← haddr, putPixel_getLsbD_mod hy]
      simp [paint, hk, Fin.ext_iff, pixels_apply]
    · have haddr : pixelAddr k y ≠ pixelAddr l x := by
        unfold pixelAddr
        omega
      have hne : ¬(k.val = l ∧ y.val = x) := fun h => hbyte ⟨h.1, by rw [h.2]⟩
      simp [paint, haddr, hne, Fin.ext_iff, pixels_apply]

/-! ### Frame-buffer commands -/

/-- Settles O13: the frame written is zero everywhere. -/
theorem clrZeroesEveryByte : Obligations.ClrZeroesEveryByte :=
  ⟨decodeOfEncodeIsTheCommand .clr rfl, fun s => ⟨_, rfl, fun _ ha => fbByte_setFrame _ s ha, rfl⟩⟩

/-- Settles O14: the word is the command's encoding, and the byte written differs in the addressed bit only. -/
theorem setpixWritesOnePixel : Obligations.SetpixWritesOnePixel := by
  intro s l x on f hl hx
  refine ⟨decode_ofNat (by simp [Instr.wellFormed, hl, hx]) (encode_setpix l x on f) (by decide) hl hx rfl, _,
    exec_setpix hl hx on f s, fun a ha hne => ?_, fun b hb => ?_, rfl⟩
  · exact (fbByte_setPixel l x on s ha).trans (if_neg hne)
  · have hbyte := (fbByte_setPixel l x on s (pixelAddr_lt hl hx)).trans (if_pos rfl)
    exact (congrArg (BitVec.getLsbD · b) hbyte).trans (putPixel_bit x on _ b hb)

/-- Settles O15: what is recorded is the addressed bit. -/
theorem getpixWritesOnlyPix : Obligations.GetpixWritesOnlyPix := fun s l x hl hx =>
  ⟨decode_ofNat (by simp [Instr.wellFormed, hl, hx]) (encode_getpix l x) (by decide) hl hx rfl, exec_getpix hl hx s⟩

/-- Settles O16: the row of byte a is a / 4. -/
theorem setrowFillsOneRow : Obligations.SetrowFillsOneRow := by
  intro s l on hl
  refine ⟨decode_ofNat (by simp [Instr.wellFormed, hl]) (encode_setrow l on) (by decide) hl (by decide) (by simp), _,
    exec_setrow hl on s, fun b hb => ?_, fun a ha hne => ?_, rfl⟩
  · have hrow : (4 * l + b) / 4 = l := by omega
    rw [fbByte_setFrame _ s (by omega), if_pos hrow]
    rfl
  · rw [fbByte_setFrame _ s ha, if_neg hne]

/-- Settles O17: SETCOL paints the column, and a byte outside it has none of the painted pixels. -/
theorem setcolWritesOnePixelOfEveryRow : Obligations.SetcolWritesOnePixelOfEveryRow := by
  intro s x on hx
  obtain ⟨t, hrun, hshows⟩ := redraws_setcol hx on s
  have hpix (l y : Nat) (hl : l < 16) (hy : y < 32) : pix t l y = if y = x then on else pix s l y := by
    simp [hshows.pix hl hy, paint, Fin.ext_iff, pixels]
  refine ⟨decode_ofNat (by simp [Instr.wellFormed, hx]) (encode_setcol x on) (by decide) (by decide) hx (by simp), t,
    (execSeq_singleton _ s).symm.trans hrun, fun l hl y hy => hpix l y hl hy, fun a ha hne => ?_, hshows.frame⟩
  refine fbByte_eq_of_pix fun b hb => ?_
  rw [hpix _ _ (by omega) (by omega), if_neg (by omega)]

/-- Settles O18: the complement is the exclusive or with 0xFF. -/
theorem invComplementsEveryByte : Obligations.InvComplementsEveryByte :=
  ⟨decodeOfEncodeIsTheCommand .inv rfl, fun s =>
    ⟨_, rfl, fun _ ha => (fbByte_setFrame _ s ha).trans BitVec.allOnes_xor.symm, rfl⟩⟩

/-- SHR pixel by pixel (40_framebuffer R59). -/
theorem exec_shr_pix (s : State) : ∃ t, exec .shr s = .next t ∧ onlyFrameDiffers s t ∧
    ∀ l < 16, ∀ x < 32, pix t l x = pix s l ((x + 1) % 32) := by
  obtain ⟨t, hrun, hshows⟩ := redraws_shr s
  exact ⟨t, (execSeq_singleton _ s).symm.trans hrun, hshows.frame, fun l hl x hx => hshows.pix hl hx⟩

/-- Settles O19: bit x of a row's value is pixel x. -/
theorem shrRotatesEachRowRight : Obligations.ShrRotatesEachRowRight := by
  refine ⟨decodeOfEncodeIsTheCommand .shr rfl, fun s => ?_⟩
  obtain ⟨t, hrun, hframe, hpix⟩ := exec_shr_pix s
  refine ⟨t, hrun, fun l hl => BitVec.eq_of_getLsbD_eq fun x hx => ?_, hpix, hframe⟩
  rw [rowval_getLsbD_eq_pix t l hx, hpix l hl x hx, ← rowval_getLsbD_eq_pix s l (Nat.mod_lt _ (by decide)),
    BitVec.getLsbD_rotateRight]
  by_cases hlast : x = 31
  · simp [hlast]
  · have hmod : (x + 1) % 32 = 1 + x := by omega
    have hlt : x < 31 := by omega
    simp [hmod, hlt]

/-- Settles O20: the pixel after the last of byte b is the first of byte (b + 1) mod 4. -/
theorem shrCarriesIntoThePreviousByte : Obligations.ShrCarriesIntoThePreviousByte := by
  intro s
  obtain ⟨t, hrun, -, hpix⟩ := exec_shr_pix s
  refine ⟨t, hrun, fun l hl b hb => BitVec.eq_of_getLsbD_eq fun i hi => ?_⟩
  have hdiv (c : Nat) (hc : c < 4) : (4 * l + c) / 4 = l := by omega
  have hmod (c : Nat) (hc : c < 4) : (4 * l + c) % 4 = c := by omega
  have hnew : (fbByte t (4 * l + b)).getLsbD i = pix s l ((8 * b + i + 1) % 32) := by
    rw [fbByte_getLsbD t _ hi, hdiv b hb, hmod b hb, hpix l hl _ (by omega)]
  have hold (c k : Nat) (hc : c < 4) (hk : k < 8) : (fbByte s (4 * l + c)).getLsbD k = pix s l (8 * c + k) := by
    rw [fbByte_getLsbD s _ hk, hdiv c hc, hmod c hc]
  rw [hnew]
  by_cases hlast : i = 7
  · have hcarry : (8 * b + i + 1) % 32 = 8 * ((b + 1) % 4) + 0 := by omega
    rw [hcarry, ← hold _ 0 (Nat.mod_lt _ (by decide)) (by decide)]
    simp [hlast]
  · have hshift : (8 * b + i + 1) % 32 = 8 * b + (1 + i) := by omega
    have hlt : i < 7 := by omega
    rw [hshift, ← hold b (1 + i) hb (by omega)]
    simp [hlt]

/-- Settles O21: the row of byte a is a / 4, and the row above row 0 is row 15. -/
theorem shdMovesRowsDown : Obligations.ShdMovesRowsDown := by
  refine ⟨decodeOfEncodeIsTheCommand .shd rfl, fun s => ⟨_, rfl, fun l hpos hl b hb => ?_, fun b hb => ?_, rfl⟩⟩
  · have haddr : 4 * (((4 * l + b) / 4 + 15) % 16) + (4 * l + b) % 4 = 4 * (l - 1) + b := by omega
    rw [fbByte_setFrame _ s (by omega), haddr]
  · have haddr : 4 * ((b / 4 + 15) % 16) + b % 4 = 60 + b := by omega
    rw [fbByte_setFrame _ s (by omega), haddr]

/-! ### The algebra of the commands -/

theorem inv_comp_inv : ((fun p l x => !p l x) ∘ fun p l x => !p l x : Grid → Grid) = id := by
  funext p l x
  exact Bool.not_not _

/-- 32 moves along a row of 32 pixels bring every pixel back. -/
theorem move_row_iterate : (move id (· + 1))^[32] = id := by
  have hturn : 32 • (1 : Fin 32) = 0 := by decide
  rw [move_iterate, add_right_iterate, hturn, Function.iterate_id]
  simp only [add_zero]
  rfl

/-- 16 moves of the 16 rows bring every row back. -/
theorem move_layer_iterate : (move (· + 15) id)^[16] = id := by
  have hturn : 16 • (15 : Fin 16) = 0 := by decide
  rw [move_iterate, add_right_iterate, hturn, Function.iterate_id]
  simp only [add_zero]
  rfl

/-- Settles O22: each sequence keeps the grid. -/
theorem invShrShdReturnAfterTheirPeriods : Obligations.InvShrShdReturnAfterTheirPeriods := fun _ hwf =>
  ⟨(redraws_inv.append redraws_inv).execSeq_self inv_comp_inv hwf,
    (redraws_shr.replicate 31).execSeq_self move_row_iterate hwf,
    (redraws_shd.replicate 15).execSeq_self move_layer_iterate hwf⟩

/-- Commands whose maps of the grid commute answer the same outcome in either order. -/
theorem Redraws.comm {g h : Grid → Grid} (hi : Redraws [i] g) (hj : Redraws [j] h) (heq : h ∘ g = g ∘ h) (s : State) :
    execSeq [i, j] s = execSeq [j, i] s :=
  (hi.append hj).execSeq_eq (hj.append hi) heq s

/-- SETCOL out of range faults before and after SHD. -/
theorem shd_setcol_of_not {x : Nat} (hx : ¬x < 32) (on : Bool) (s : State) :
    execSeq [.shd, .setcol x on] s = execSeq [.setcol x on, .shd] s := by
  have hfault (u : State) : exec (.setcol x on) u = .fault (.outOfRange none (some x)) := withColumn_of_not hx _
  rw [execSeq_cons_fault [.shd] (hfault s)]
  exact execSeq_cons_fault [] (hfault _)

/-- Settles O23: rows move as wholes, pixels move alike in every row, and a complement, a zero or a column does not depend on
the place. -/
theorem shiftsCommute : Obligations.ShiftsCommute := by
  intro s
  refine ⟨redraws_shr.comm redraws_shd rfl s, redraws_shr.comm redraws_inv rfl s, redraws_shr.comm redraws_clr rfl s,
    redraws_shd.comm redraws_inv rfl s, redraws_shd.comm redraws_clr rfl s, fun x on => ?_⟩
  by_cases hx : x < 32
  · exact redraws_shd.comm (redraws_setcol hx on) rfl s
  · exact shd_setcol_of_not hx on s

/-- A command that makes an idempotent map of the grid answers twice what it answers once. -/
theorem Redraws.idem {g : Grid → Grid} (h : Redraws [i] g) (heq : g ∘ g = g) (s : State) :
    execSeq [i, i] s = execSeq [i] s :=
  (h.append h).execSeq_eq h heq s

/-- Settles O24: a region painted twice is painted once, and a fault comes at the first command. -/
theorem rowAndColumnWritesAreIdempotent : Obligations.RowAndColumnWritesAreIdempotent := by
  intro s l x on
  constructor
  · by_cases hl : l < 16
    · exact (redraws_setrow hl on).idem (paint_paint _ on) s
    · have hfault : exec (.setrow l on) s = .fault (.outOfRange (some l) none) := withLayer_of_not hl _
      rw [execSeq_cons_fault _ hfault, execSeq_cons_fault _ hfault]
  · by_cases hx : x < 32
    · exact (redraws_setcol hx on).idem (paint_paint _ on) s
    · have hfault : exec (.setcol x on) s = .fault (.outOfRange none (some x)) := withColumn_of_not hx _
      rw [execSeq_cons_fault _ hfault, execSeq_cons_fault _ hfault]

/-- GETPIX after other commands records the pixel they left. -/
theorem execSeq_getpix {is : List Instr} {l x : Nat} (hl : l < 16) (hx : x < 32) (h : execSeq is s = .next t) :
    execSeq (is ++ [.getpix l x]) s = .next (recordPixel (pix t l x) t) := by
  rw [execSeq_append _ h, execSeq_singleton, exec_getpix hl hx]

/-- Settles O25: GETPIX records the pixel of the grid that CLR zeroes and SETPIX paints. -/
theorem getpixReadsWhatWasWritten : Obligations.GetpixReadsWhatWasWritten := by
  intro s l x on hl hx
  obtain ⟨t, hclr, hzero⟩ := redraws_clr s
  obtain ⟨u, hset, hpaint⟩ := redraws_setpix hl hx on s
  have hpix (l' x' : Nat) (hl' : l' < 16) (hx' : x' < 32) :
      pix u l' x' = if l' = l ∧ x' = x then on else pix s l' x' := by
    simp [hpaint.pix hl' hx', paint, Fin.ext_iff, pixels]
  refine ⟨⟨_, execSeq_getpix hl hx hclr, hzero.pix hl hx⟩, _, execSeq_getpix hl hx hset, ?_, fun l' hl' x' hx' =>
    hpix l' x' hl' hx'⟩
  exact (hpix l x hl hx).trans (if_pos ⟨rfl, rfl⟩)

/-! ### LOAD -/

/-- Settles O27: the word is the command's encoding, and the command opens the payload phase. -/
theorem loadOpensThePayloadPhase : Obligations.LoadOpensThePayloadPhase :=
  ⟨decodeOfEncodeIsTheCommand .load rfl, fun _ => rfl⟩

/-- A DATA write that does not hold is taken in its step. -/
theorem step_data_write {w : Word} {rest : List Input} (hi : s.inputs = .host (.write 1 w) :: rest) (hser : s.ser = .idle)
    (hheld : s.held = none) : step s = .next (dataWrite w { s with inputs := rest }) := by
  have taken : TakesWrite (.host (.write 1 w)) { s with inputs := rest } (.data w) { s with inputs := rest } :=
    ⟨hser, .inl ⟨hheld, rfl, rfl⟩⟩
  exact (step_cons hi).trans taken.takeInput_eq

/-- A payload byte before the 64th, field by field (40_framebuffer R63). -/
theorem dataWrite_of_lt {w : Word} {n : Fin 64} (hldp : s.ldp = true) (hn : n.val = s.ldcnt.val + 1) :
    dataWrite w s = { s with stg := s.stg.set s.ldcnt.val (w.setWidth 8) s.ldcnt.isLt, ldcnt := n } := by
  obtain ⟨m, hm⟩ := n
  cases hn
  rw [dataWrite_of_ldp hldp, payload_of_lt hm, lowByte_eq_setWidth, stageByte]

/-- The 64th payload byte commits (40_framebuffer R64). -/
theorem dataWrite_of_last {w : Word} (hldp : s.ldp = true) (hlast : s.ldcnt.val = 63) :
    dataWrite w s = loadCommit (stageByte (w.setWidth 8) s) := by
  rw [dataWrite_of_ldp hldp, payload_of_not_lt (by omega), lowByte_eq_setWidth]

/-- The staged bytes after one more is staged. -/
theorem stageByte_stage (v : Byte) (s : State) {j : Nat} (hj : j < 64) :
    (stageByte v s).stg[j] = if j = s.ldcnt.val then v else s.stg[j] := by
  simp only [stageByte_stg, Vector.getElem_set, eq_comm]

/-- Settles O28: a DATA write with LDP = 1 is a payload byte, and the 64th one commits. -/
theorem payloadBytesAreStagedAndTheLastCommits : Obligations.PayloadBytesAreStagedAndTheLastCommits := by
  intro s w rest hi hser hheld hldp
  rw [step_data_write hi hser hheld]
  refine ⟨fun n hn => congrArg _ (dataWrite_of_lt hldp hn), fun hlast =>
    ⟨_, congrArg _ (dataWrite_of_last hldp hlast), ?_, ?_⟩⟩
  · intro a
    rw [fbByte_loadCommit a.isLt, stageByte_stage _ _ a.isLt]
    simp only [hlast]
  · simp only [loadCommit, stageByte, hlast]

/-! ### A pending LOAD -/

/-- From `s` to `t` nothing changes that a pending LOAD and the frame buffer hold. -/
structure LoadKept (s t : State) : Prop where
  fb : t.fb = s.fb
  ldp : t.ldp = s.ldp
  ldcnt : t.ldcnt = s.ldcnt
  stg : t.stg = s.stg

theorem LoadKept.loadingPattern {d : Bytes64} (h : LoadKept s t) (hs : loadingPattern d s) : loadingPattern d t := by
  rwa [Machine.loadingPattern, h.ldp, h.ldcnt, h.stg]

/-- A step that takes no CMD or DATA write and is no reset touches neither FB nor the LOAD. -/
theorem step_loadKept (hstep : step s = .next t) (hnone : writeTaken s = none) (hreset : ¬resets s) : LoadKept s t := by
  rcases step_effect hstep with ⟨-, rfl⟩ | ⟨e, rest, hi, heffect⟩
  · exact ⟨rfl, rfl, rfl, rfl⟩
  cases heffect with
  | command w i u taken => exact absurd (taken.writeTaken_eq hi) (by simp [hnone])
  | illegalWord w u taken => exact absurd (taken.writeTaken_eq hi) (by simp [hnone])
  | data w u taken => exact absurd (taken.writeTaken_eq hi) (by simp [hnone])
  | resets input => exact absurd (resets_of_reset (input ▸ hi)) hreset
  | powersUp input => exact absurd (resets_of_powerUp (input ▸ hi)) hreset
  | sends k _ _ result =>
    subst t
    constructor <;> simp
  | holds | notEnabled | reads | statusWrite | brightWrite | stillHeld | aborts | latches | passedOver =>
    subst t
    exact ⟨rfl, rfl, rfl, rfl⟩

/-- A step that takes a DATA write is that write. -/
theorem step_of_data_taken {w : Word} (h : writeTaken s = some (.data w)) :
    ∃ q rest, step s = .next (dataWrite w { s with inputs := rest, held := q }) := by
  obtain ⟨e, rest, u, hi, taken⟩ := takesWrite_of_writeTaken h
  obtain ⟨q, rfl⟩ := taken.exists_held
  exact ⟨q, rest, (step_cons hi).trans taken.takeInput_eq⟩

/-- With the next byte of `d` staged, the bytes below the next place are those of `d`. -/
theorem loadingPattern.stage {d : Bytes64} (h : loadingPattern d s) {j : Nat} (hj : j < 64) (hle : j ≤ s.ldcnt.val) :
    (stageByte d[s.ldcnt.val] s).stg[j] = d[j] := by
  rw [stageByte_stage _ _ hj]
  split
  · next heq => simp only [heq]
  · next hne => exact h.2 ⟨j, hj⟩ (show j < s.ldcnt.val by omega)

/-- A payload byte of `d` before the 64th keeps the LOAD of `d` pending. -/
theorem loadingPattern.next {d : Bytes64} {w : Word} {n : Fin 64} (h : loadingPattern d s)
    (hw : w.setWidth 8 = d[s.ldcnt.val]) (hn : n.val = s.ldcnt.val + 1) : loadingPattern d (dataWrite w s) := by
  rw [dataWrite_of_lt h.1 hn, hw]
  exact ⟨h.1, fun j hj => h.stage j.isLt (by simpa [hn, Nat.lt_succ_iff] using hj)⟩

/-- The 64th payload byte of `d` makes FB the pattern. -/
theorem loadingPattern.commit {d : Bytes64} {w : Word} (h : loadingPattern d s)
    (hw : w.setWidth 8 = d[s.ldcnt.val]) (hlast : s.ldcnt.val = 63) {a : Nat} (ha : a < 64) :
    fbByte (dataWrite w s) a = d[a] := by
  rw [dataWrite_of_last h.1 hlast, hw, fbByte_loadCommit ha, h.stage ha (by omega)]

/-- Settles O31: a step takes no write and keeps the LOAD, or takes the next byte of the pattern, which is the 64th or not. -/
theorem pendingLoadHoldsThePrefixOfItsPattern : Obligations.PendingLoadHoldsThePrefixOfItsPattern := by
  intro d s t h hstep hreset hcmd hdata
  cases htaken : writeTaken s with
  | none =>
    have hkept := step_loadKept hstep htaken hreset
    exact .inl ⟨hkept.loadingPattern h, hkept.fb, congrArg Fin.val hkept.ldcnt⟩
  | some p =>
    cases p with
    | cmd w => exact absurd htaken (hcmd w)
    | data w =>
      obtain ⟨q, rest, hrun⟩ := step_of_data_taken htaken
      cases hrun.symm.trans hstep
      have hw := hdata w htaken
      have h' : loadingPattern d { s with inputs := rest, held := q } := h
      by_cases hcount : s.ldcnt.val + 1 < 64
      · have hstaged := dataWrite_of_lt (w := w) (n := ⟨_, hcount⟩) h'.1 rfl
        exact .inl ⟨h'.next hw (n := ⟨_, hcount⟩) rfl, by rw [hstaged], by rw [hstaged]; rfl⟩
      · have hlast : s.ldcnt.val = 63 := by omega
        have hcommit := dataWrite_of_last (w := w) h'.1 hlast
        exact .inr ⟨hlast, rfl, congrArg State.ldp hcommit, congrArg State.ldcnt hcommit,
          fun a => h'.commit hw hlast a.isLt⟩

/-! ### LOADBMP -/

/-- The DATA write of the next payload byte stands before those of the bytes after it. -/
theorem payloadInputs_drop (d : Bytes64) {k : Nat} (hk : k < 64) :
    (payloadInputs d).drop k = .host (.write 1 (d[k].setWidth 16)) :: (payloadInputs d).drop (k + 1) := by
  have hlen : k < (payloadInputs d).length := by simpa [payloadInputs] using hk
  rw [List.drop_eq_getElem_cons hlen]
  simp only [payloadInputs, List.getElem_map, Vector.getElem_toList]
  rfl

/-- The state `t` is `s` with the pattern `d` in FB, the inputs `rest` left, no LOAD pending and any STG (log 6). -/
structure LoadsPattern (d : Bytes64) (rest : List Input) (s t : State) : Prop where
  bytes : ∀ a (ha : a < 64), fbByte t a = d[a]
  memory : t.fb.wf
  frame : t = { s with inputs := rest, fb := t.fb, stg := t.stg, ldp := false, ldcnt := 0 }

/-- In a LOAD of `d` the next input is the DATA write of the next byte of `d`. -/
theorem step_payload {d : Bytes64} {rest : List Input} (h : loadingPattern d s)
    (hi : s.inputs = (payloadInputs d).drop s.ldcnt.val ++ rest) (hser : s.ser = .idle) (hheld : s.held = none) :
    ∃ (w : Word) (left : List Input), left = (payloadInputs d).drop (s.ldcnt.val + 1) ++ rest ∧
      w.setWidth 8 = d[s.ldcnt.val] ∧ loadingPattern d { s with inputs := left } ∧
      step s = .next (dataWrite w { s with inputs := left }) := by
  rw [payloadInputs_drop d s.ldcnt.isLt, List.cons_append] at hi
  exact ⟨_, _, rfl, by simp, h, step_data_write hi hser hheld⟩

/-- The payload bytes that are left of a LOAD of `d` complete it. -/
theorem runSteps_payload (d : Bytes64) (rest : List Input) (n : Nat) {s : State} (h : loadingPattern d s)
    (hcount : s.ldcnt.val + n = 63) (hi : s.inputs = (payloadInputs d).drop s.ldcnt.val ++ rest) (hser : s.ser = .idle)
    (hheld : s.held = none) : ∃ t, runSteps (n + 1) s = .next t ∧ LoadsPattern d rest s t := by
  induction n generalizing s with
  | zero =>
    obtain ⟨w, left, hleft, hw, hpending, hstep⟩ := step_payload h hi hser hheld
    have hnone : left = rest := by simp [hleft, payloadInputs, show s.ldcnt.val = 63 from hcount]
    refine ⟨_, runSteps_succ 0 hstep, fun a ha => hpending.commit hw hcount ha, ?_, ?_⟩ <;>
      rw [dataWrite_of_last hpending.1 hcount]
    · exact loadCommit_wf _
    · rw [hnone]
      rfl
  | succ n ih =>
    obtain ⟨w, left, hleft, hw, hpending, hstep⟩ := step_payload h hi hser hheld
    have hlt : s.ldcnt.val + 1 < 64 := by omega
    have hnext := hpending.next (n := ⟨_, hlt⟩) hw rfl
    rw [dataWrite_of_lt (n := ⟨_, hlt⟩) hpending.1 rfl] at hstep hnext
    obtain ⟨t, hrun, hbytes, hmem, hframe⟩ :=
      ih hnext (show s.ldcnt.val + 1 + n = 63 by omega) hleft hser hheld
    exact ⟨t, (runSteps_succ (n + 1) hstep).trans hrun, hbytes, hmem, hframe⟩

/-- Settles O30: the first step opens the payload phase, and the 64 bytes complete the LOAD. -/
theorem loadBitmapWritesThePattern : Obligations.LoadBitmapWritesThePattern := by
  intro s d rest hi hser hheld hldp
  have hopen : step s = .next (loadStart { s with inputs := payloadInputs d ++ rest }) := by
    refine (step_cmd_write hi hser hheld).trans ((cmdWrite_of_legal loadOpensThePayloadPhase.1 _).trans ?_)
    exact congrArg (exec .load) (atDecode_of_not_ldp hldp)
  have hstart : loadingPattern d (loadStart { s with inputs := payloadInputs d ++ rest }) :=
    ⟨rfl, fun j hj => absurd hj (Nat.not_lt_zero j.val)⟩
  obtain ⟨t, hrun, hbytes, hmem, hframe⟩ := runSteps_payload d rest 63 hstart rfl rfl hser hheld
  refine ⟨t, (runSteps_succ 64 hopen).trans hrun, fun l b => hbytes _ (by omega), ?_, hframe⟩
  refine wf_ext hmem (setFrame_wf _ _) fun a ha => (hbytes a ha).trans ?_
  exact ((fbByte_setFrame _ s ha).trans (dif_pos ha)).symm

/-! ### The fields that a command may write -/

/-- Only LOAD writes LDP and LDCNT (40_framebuffer R50, R62). -/
theorem exec_load_fields (h : exec i s = .next t) (hi : i ≠ .load) : t.ldp = s.ldp ∧ t.ldcnt = s.ldcnt := by
  cases i with
  | load => exact absurd rfl hi
  | setpix l x on f =>
    obtain ⟨-, -, rfl⟩ := withPixel_eq_next h
    cases f <;> exact ⟨rfl, rfl⟩
  | getpix l x =>
    obtain ⟨-, -, rfl⟩ := withPixel_eq_next h
    exact ⟨rfl, rfl⟩
  | setrow l on =>
    obtain ⟨-, rfl⟩ := withLayer_eq_next h
    exact ⟨rfl, rfl⟩
  | setcol x on =>
    obtain ⟨-, rfl⟩ := withColumn_eq_next h
    exact ⟨rfl, rfl⟩
  | _ => cases h; exact ⟨rfl, rfl⟩

/-- Only FLUSH and SETPIX with F = 1 write SER (40_framebuffer R53, 41_display_transmit R68). -/
theorem exec_ser_of_no_flush (h : exec i s = .next t) (hset : ∀ l x on, i ≠ .setpix l x on true)
    (hflush : i ≠ .flush) : t.ser = s.ser := by
  cases i with
  | flush => exact absurd rfl hflush
  | setpix l x on f =>
    obtain ⟨-, -, rfl⟩ := withPixel_eq_next h
    cases f with
    | false => rfl
    | true => exact absurd rfl (hset l x on)
  | getpix l x =>
    obtain ⟨-, -, rfl⟩ := withPixel_eq_next h
    rfl
  | setrow l on =>
    obtain ⟨-, rfl⟩ := withLayer_eq_next h
    rfl
  | setcol x on =>
    obtain ⟨-, rfl⟩ := withColumn_eq_next h
    rfl
  | _ => cases h; rfl

/-- Settles O50: each field has its own lemma. -/
theorem commandsWriteOnlyTheirFields : Obligations.CommandsWriteOnlyTheirFields := fun _ _ _ h =>
  ⟨exec_frame h, exec_fb_of_not_writesFrame h, exec_pix_of_not_getpix h, exec_load_fields h, exec_ser_of_no_flush h⟩

end Sys2Proof.Machine
end

section
/-! PROOFS. The statements of spec/41_display_transmit.md: how a flush starts, sends its bytes, latches the chain, aborts and
hangs, what the outputs show, what a held write does after it, and which steps draw. -/

namespace Sys2Proof.Machine

variable {s t u v : State} {e : Input} {rest : List Input} {k : Fin 64}

/-! ### BUSY and STB -/

/-- Bit 0 of STATUS is BUSY (42_host_access R83). -/
theorem statusWord_getLsbD_zero (s : State) : (statusWord s).getLsbD 0 = busy s := by
  rw [statusWord, BitVec.getLsbD_append]
  exact (if_pos Nat.one_pos).trans (by simp)

theorem busy_of_xmit (h : s.ser = .xmit k) : busy s = true := by
  simp [busy, h]

theorem strobeOut_of_xmit (h : s.ser = .xmit k) : strobeOut s = false := by
  simp [strobeOut, h]

/-! ### The steps of the Bus and the Strobe -/

theorem busTxDone_of_xmit (h : s.ser = .xmit k) : busTxDone s = sendByte k s := by
  simp [busTxDone, h]

theorem busTxDone_of_not_xmit (h : ∀ k, s.ser ≠ .xmit k) : busTxDone s = s := by
  cases hs : s.ser with
  | xmit k => exact absurd hs (h k)
  | idle => simp [busTxDone, hs]
  | strobe => simp [busTxDone, hs]

theorem busTxTimeout_of_xmit (h : s.ser = .xmit k) (ht : s.txTimeout.isSome = true) : busTxTimeout s = abortFlush s := by
  obtain ⟨n, hn⟩ := Option.isSome_iff_exists.1 ht
  simp [busTxTimeout, h, hn]

theorem busTxTimeout_of_none (ht : s.txTimeout = none) : busTxTimeout s = s := by
  simp [busTxTimeout, ht]

theorem busTxTimeout_of_not_xmit (h : ∀ k, s.ser ≠ .xmit k) : busTxTimeout s = s := by
  cases ht : s.txTimeout with
  | none => exact busTxTimeout_of_none ht
  | some n =>
    cases hs : s.ser with
    | xmit k => exact absurd hs (h k)
    | idle => simp [busTxTimeout, ht, hs]
    | strobe => simp [busTxTimeout, ht, hs]

theorem strobeStep_of_strobe (h : s.ser = .strobe) : strobeStep s = latch s := by
  simp [strobeStep, h]

theorem strobeStep_of_not_strobe (h : s.ser ≠ .strobe) : strobeStep s = s := by
  cases hs : s.ser with
  | strobe => exact absurd hs h
  | idle => simp [strobeStep, hs]
  | xmit k => simp [strobeStep, hs]

/-- In XMIT(k) the step of `txDone` sends byte k. -/
theorem step_txDone (hi : s.inputs = .txDone :: rest) (hser : s.ser = .xmit k) :
    step s = .next (sendByte k { s with inputs := rest }) :=
  (step_cons hi).trans (congrArg Host.Outcome.next (busTxDone_of_xmit (s := { s with inputs := rest }) hser))

/-- In XMIT(k) the step of `txTimeout` aborts the flush, where TX_TIMEOUT is not none. -/
theorem step_txTimeout (hi : s.inputs = .txTimeout :: rest) (hser : s.ser = .xmit k) (ht : s.txTimeout.isSome = true) :
    step s = .next (abortFlush { s with inputs := rest }) :=
  (step_cons hi).trans (congrArg Host.Outcome.next (busTxTimeout_of_xmit (s := { s with inputs := rest }) hser ht))

/-- In STROBE the step of `strobeEnd` latches the chain. -/
theorem step_strobeEnd (hi : s.inputs = .strobeEnd :: rest) (hser : s.ser = .strobe) :
    step s = .next (latch { s with inputs := rest }) :=
  (step_cons hi).trans (congrArg Host.Outcome.next (strobeStep_of_strobe (s := { s with inputs := rest }) hser))

/-- Settles O36: each event whose guard fails is passed over. -/
theorem unguardedEventsChangeNothing : Obligations.UnguardedEventsChangeNothing := by
  intro s rest
  refine ⟨fun hi h => ?_, fun hi h => ?_, fun hi h => ?_, fun hi h => ?_, fun hi => ?_⟩
  · exact (step_cons hi).trans (congrArg Host.Outcome.next (busTxDone_of_not_xmit (s := { s with inputs := rest }) h))
  · exact (step_cons hi).trans (congrArg Host.Outcome.next (busTxTimeout_of_not_xmit (s := { s with inputs := rest }) h))
  · exact (step_cons hi).trans (congrArg Host.Outcome.next (strobeStep_of_not_strobe (s := { s with inputs := rest }) h))
  · refine (step_cons hi).trans ?_
    simp [takeInput, retryHeld, h]
  · simp [step, hi]

/-! ### The start of a flush, and the end of one -/

/-- Settles O32: the word is the command's encoding, and the command writes SER only. -/
theorem flushStartsWithByteZero : Obligations.FlushStartsWithByteZero :=
  ⟨decodeOfEncodeIsTheCommand .flush rfl, fun s =>
    ⟨_, rfl, rfl, (statusWord_getLsbD_zero _).trans (busy_of_xmit (flushStart_ser s)), strobeOut_of_xmit (flushStart_ser s)⟩⟩

/-- Settles O34: the step latches the chain. -/
theorem strobeEndLatchesTheChain : Obligations.StrobeEndLatchesTheChain := fun _ _ hi hser =>
  ⟨_, step_strobeEnd hi hser, rfl, rfl, statusWord_getLsbD_zero _⟩

/-- Settles O35: the step aborts the flush where TX_TIMEOUT is not none, and is passed over where it is. -/
theorem txTimeoutAbortsTheFlush : Obligations.TxTimeoutAbortsTheFlush := fun s _ rest hi hser =>
  ⟨fun ht => ⟨_, step_txTimeout hi hser ht, rfl, rfl⟩,
    fun ht => (step_cons hi).trans (congrArg Host.Outcome.next (busTxTimeout_of_none (s := { s with inputs := rest }) ht))⟩

/-- With frame byte 63 - j in stage j, the latched frame is the frame (41_display_transmit R74). -/
theorem latchedFrame_latch (h : ∀ j : Fin 64, s.ch[j.val] = fbByte s (63 - j.val)) (k : Fin 64) :
    (latchedFrame (latch s))[k.val] = fbByte s k.val := by
  have hstage := h ⟨63 - k.val, by omega⟩
  have hindex : 63 - (63 - k.val) = k.val := by omega
  simpa [latchedFrame, hindex] using hstage

/-- Settles O59: in STROBE the invariant puts frame byte 63 - j in stage j, and the step latches the chain. -/
theorem latchedFrameIsTheFrameAfterAPulse : Obligations.LatchedFrameIsTheFrameAfterAPulse := by
  intro s t rest hinv hser hi hstep
  have hchain : ∀ j : Fin 64, s.ch[j.val] = fbByte s (63 - j.val) := by
    simpa only [chainTracksFrame, hser] using hinv.chain
  cases (step_strobeEnd hi hser).symm.trans hstep
  exact latchedFrame_latch (s := { s with inputs := rest }) hchain

/-! ### One byte -/

/-- SER with `n` bytes sent (41_display_transmit R69, R71). -/
def serAfter (n : Nat) : Ser := if h : n < 64 then .xmit ⟨n, h⟩ else .strobe

theorem serAfter_of_lt {n : Nat} (h : n < 64) : serAfter n = .xmit ⟨n, h⟩ := dif_pos h

theorem serAfter_eq_strobe_iff {n : Nat} : serAfter n = .strobe ↔ 64 ≤ n := by
  unfold serAfter
  split <;> simp <;> omega

/-- A byte is sent: SER, the chain and TX change, and nothing else does (41_display_transmit R69). -/
theorem sendByte_eq (k : Fin 64) (s : State) :
    sendByte k s =
      { s with ser := serAfter (k.val + 1), ch := (sendByte k s).ch, tx := s.tx ++ [fbByte s k.val] } := by
  simp only [sendByte, advanceSer, emit, shiftIn, serAfter]

/-- Settles O33: the sent byte enters stage 0 and every stage takes the one before it. -/
theorem txDoneSendsOneByte : Obligations.TxDoneSendsOneByte := by
  intro s k rest hi hser
  have hstage (j : Nat) (hj : j < 64) :
      (sendByte k { s with inputs := rest }).ch[j] = if j = 0 then fbByte s k.val else s.ch[j - 1] := by
    simp only [sendByte_ch, shiftIn_stage]
    rfl
  have hser' : (sendByte k { s with inputs := rest }).ser = serAfter (k.val + 1) := sendByte_ser _ k
  refine ⟨_, step_txDone hi hser, hstage 0 (by decide), fun j => hstage (j.val + 1) (by omega), fun n hn => ?_,
    fun hlast => ?_, ?_⟩
  · rw [hser', ← hn, serAfter_of_lt n.isLt]
  · have hstrobe := hser'.trans (serAfter_eq_strobe_iff.2 (Nat.succ_le_succ hlast.ge))
    exact ⟨hstrobe, decide_eq_true hstrobe⟩
  · rw [hser']
    exact sendByte_eq k _

/-! ### A complete flush -/

/-- The state `v` is `u` with the first `n` bytes of the frame sent, of a flush whose Bus and Strobe answer (41_display_transmit
R69 to R71). -/
structure Sent (rest : List Input) (n : Nat) (u v : State) : Prop where
  tx : v.tx = u.tx ++ (List.range n).map (fbByte u)
  chain : ∀ j : Fin 64, j.val < n → v.ch[j.val] = fbByte u (n - 1 - j.val)
  frame : v = { u with
    inputs := List.replicate (64 - n) .txDone ++ .strobeEnd :: rest, ser := serAfter n, tx := v.tx, ch := v.ch }

theorem Sent.ser {n : Nat} (h : Sent rest n u v) : v.ser = serAfter n := congrArg State.ser h.frame

theorem Sent.inputs {n : Nat} (h : Sent rest n u v) :
    v.inputs = List.replicate (64 - n) .txDone ++ .strobeEnd :: rest :=
  congrArg State.inputs h.frame

theorem Sent.out {n : Nat} (h : Sent rest n u v) : v.out = u.out := by rw [h.frame]

theorem Sent.fbByte_eq {n : Nat} (h : Sent rest n u v) (a : Nat) : fbByte v a = fbByte u a :=
  fbByte_congr (congrArg State.fb h.frame) a

/-- The next `txDone` sends the next byte. -/
theorem Sent.step {n : Nat} (h : Sent rest n u v) (hn : n < 64) : ∃ w, step v = .next w ∧ Sent rest (n + 1) u w := by
  have hcount : 64 - n = 64 - (n + 1) + 1 := by omega
  have hi : v.inputs = .txDone :: (List.replicate (64 - (n + 1)) .txDone ++ .strobeEnd :: rest) := by
    rw [h.inputs, hcount, List.replicate_succ, List.cons_append]
  refine ⟨_, step_txDone hi (h.ser.trans (serAfter_of_lt hn)), ?_, fun j hj => ?_, ?_⟩
  · rw [sendByte_tx, List.range_succ, List.map_append, ← List.append_assoc, ← h.tx]
    exact congrArg (fun b => v.tx ++ [b]) (h.fbByte_eq n)
  · refine (sendByte_stage (fun j hj => ?_) j (Nat.le_of_lt_succ hj)).trans (h.fbByte_eq _)
    exact (h.chain j hj).trans (h.fbByte_eq _).symm
  · rw [sendByte_eq]
    generalize (sendByte _ _).ch = c
    rw [h.frame]

/-- The first `n` steps of a flush whose Bus answers send `n` bytes. -/
theorem runSteps_sent (hser : u.ser = .xmit 0) (hi : u.inputs = flushInputs ++ rest) {n : Nat} (hn : n ≤ 64) :
    ∃ v, runSteps n u = .next v ∧ Sent rest n u v := by
  induction n with
  | zero =>
    refine ⟨u, rfl, (List.append_nil _).symm, fun j hj => absurd hj (Nat.not_lt_zero _), ?_⟩
    have hstart : serAfter 0 = u.ser := hser.symm
    have hinputs : List.replicate (64 - 0) Input.txDone ++ .strobeEnd :: rest = u.inputs := by
      rw [hi, flushInputs, List.append_assoc]
      rfl
    rw [hstart, hinputs]
  | succ n ih =>
    obtain ⟨v, hrun, hsent⟩ := ih (Nat.le_of_succ_le hn)
    obtain ⟨w, hstep, hsent'⟩ := hsent.step hn
    exact ⟨w, (runSteps_add n 1 hrun).trans (runSteps_succ 0 hstep), hsent'⟩

/-- FLUSH and SETPIX with F = 1 start a flush (40_framebuffer R53, 41_display_transmit R68). -/
theorem exec_ser_of_flush {i : Instr} (hi : i = .flush ∨ ∃ l x on, i = .setpix l x on true) (h : exec i s = .next t) :
    t.ser = .xmit 0 := by
  rcases hi with rfl | ⟨l, x, on, rfl⟩
  · cases h
    rfl
  · obtain ⟨-, -, rfl⟩ := withPixel_eq_next h
    rfl

/-- Settles O37: the 64 bytes are sent one a step, and the step after them latches the chain. -/
theorem completeFlushShowsTheFrame : Obligations.CompleteFlushShowsTheFrame := by
  intro i s u rest hflush hexec hi
  have hframe := exec_frame hexec
  have hout : u.out = s.out := by rw [hframe]
  have htx : u.tx = s.tx := by rw [hframe]
  have hrun {n : Nat} := runSteps_sent (exec_ser_of_flush hflush hexec) ((congrArg State.inputs hframe).trans hi) (n := n)
  constructor
  · intro n hn
    obtain ⟨v, hv, hsent⟩ := hrun hn
    refine ⟨v, hv, hsent.out.trans hout, ?_⟩
    rw [strobeOut, decide_eq_true_iff, hsent.ser, serAfter_eq_strobe_iff]
    omega
  · obtain ⟨v, hv, hsent⟩ := hrun le_rfl
    have hchain : ∀ j : Fin 64, v.ch[j.val] = fbByte u (63 - j.val) := fun j => hsent.chain j j.isLt
    have hlatched := latchedFrame_latch (s := { v with inputs := rest })
      fun j => (hchain j).trans (hsent.fbByte_eq _).symm
    refine ⟨_, (runSteps_add 64 1 hv).trans (runSteps_succ 0 (step_strobeEnd hsent.inputs hsent.ser)),
      htx ▸ hsent.tx, hchain, rfl, fun k => (hlatched k).trans (hsent.fbByte_eq _), ?_⟩
    rw [latch, hsent.frame]

/-! ### A Bus that never answers -/

/-- From `s` to `t` a flush that is sending has not moved: SER, OUT, CH, FB and a held write are kept, and no input is new
(41_display_transmit R76). -/
structure Hangs (s t : State) : Prop where
  ser : t.ser = s.ser
  out : t.out = s.out
  ch : t.ch = s.ch
  fb : t.fb = s.fb
  held : s.held ≠ none → t.held = s.held
  inputs : t.inputs ⊆ s.inputs

theorem Hangs.refl (s : State) : Hangs s s := ⟨rfl, rfl, rfl, rfl, fun _ => rfl, List.Subset.refl _⟩

theorem Hangs.trans (h : Hangs s t) (h' : Hangs t u) : Hangs s u where
  ser := h'.ser.trans h.ser
  out := h'.out.trans h.out
  ch := h'.ch.trans h.ch
  fb := h'.fb.trans h.fb
  held := fun hheld => (h'.held (by rwa [h.held hheld])).trans (h.held hheld)
  inputs := List.Subset.trans h'.inputs h.inputs

/-- While a byte is on the bus no write is taken and no pulse ends, so an input that does not free the bus moves nothing of the
flush. -/
theorem InputEffect.hangs (heffect : InputEffect e s t) (hser : s.ser = .xmit k) (hsilent : e.freesBus = false) :
    Hangs s t := by
  have hbusy : s.ser ≠ .idle := by simp [hser]
  cases heffect with
  | command w i u taken => exact absurd taken.1 hbusy
  | illegalWord w u taken => exact absurd taken.1 hbusy
  | data w u taken => exact absurd taken.1 hbusy
  | latches _ guard => simp [hser] at guard
  | sends _ input | aborts _ input | resets input | powersUp input =>
    subst e
    cases hsilent
  | holds p free _ _ result =>
    subst t
    exact ⟨rfl, rfl, rfl, rfl, fun hheld => absurd free hheld, List.Subset.refl _⟩
  | notEnabled | reads | statusWrite | brightWrite | stillHeld | passedOver =>
    subst t
    exact ⟨rfl, rfl, rfl, rfl, fun _ => rfl, List.Subset.refl _⟩

/-- A step with no answer of the Bus, no reset and no power cycle among the inputs. -/
theorem step_hangs (hser : s.ser = .xmit k) (hsilent : ∀ e ∈ s.inputs, e.freesBus = false) :
    ∃ t, step s = .next t ∧ Hangs s t := by
  obtain ⟨t, hstep⟩ := everyStepAnswersANextState s
  refine ⟨t, hstep, ?_⟩
  rcases step_effect hstep with ⟨-, rfl⟩ | ⟨e, rest, hi, heffect⟩
  · exact .refl _
  · have hpop : Hangs s { s with inputs := rest } :=
      ⟨rfl, rfl, rfl, rfl, fun _ => rfl, hi ▸ List.subset_cons_self e rest⟩
    exact hpop.trans (heffect.hangs hser (hsilent e (hi ▸ List.mem_cons_self)))

theorem runSteps_hangs (n : Nat) (hser : s.ser = .xmit k) (hsilent : ∀ e ∈ s.inputs, e.freesBus = false) :
    ∃ t, runSteps n s = .next t ∧ Hangs s t := by
  induction n generalizing s with
  | zero => exact ⟨s, rfl, .refl s⟩
  | succ n ih =>
    obtain ⟨u, hstep, hhangs⟩ := step_hangs hser hsilent
    obtain ⟨t, hrun, hhangs'⟩ := ih (hhangs.ser.trans hser) fun e he => hsilent e (hhangs.inputs he)
    exact ⟨t, (runSteps_succ n hstep).trans hrun, hhangs.trans hhangs'⟩

/-- Settles O38, by induction on the number of steps. -/
theorem silentBusHangsTheFlush : Obligations.SilentBusHangsTheFlush := by
  intro n s k hser hsilent
  obtain ⟨t, hrun, hhangs⟩ := runSteps_hangs n hser hsilent
  have hser' := hhangs.ser.trans hser
  exact ⟨t, hrun, hser', (statusWord_getLsbD_zero t).trans (busy_of_xmit hser'), strobeOut_of_xmit hser', hhangs.out,
    hhangs.ch, hhangs.fb, hhangs.held⟩

/-! ### The outputs during the pulse -/

/-- The draw by which `old` and `new` mix to `v`: 1 at the bits where `v` is not the old one. -/
def mixingDraw (old v : Bytes64) : Bytes64 := Vector.ofFn fun j => v[j.val] ^^^ old[j.val]

/-- The mixtures of two values are those in which each bit is that of the one or of the other (41_display_transmit R73). -/
theorem exists_mixBytes_iff {old new v : Bytes64} :
    (∃ m, v = mixBytes m old new) ↔
      ∀ j : Fin 64, ∀ i < 8, v[j.val].getLsbD i = old[j.val].getLsbD i ∨ v[j.val].getLsbD i = new[j.val].getLsbD i := by
  constructor
  · rintro ⟨m, rfl⟩ j i hi
    rw [mixBytes_bit m old new j hi]
    split
    · exact .inr rfl
    · exact .inl rfl
  · refine fun h => ⟨mixingDraw old v, Vector.ext fun j hj => BitVec.eq_of_getLsbD_eq fun i hi => ?_⟩
    rw [mixBytes_bit _ old new ⟨j, hj⟩ hi]
    have hdraw : (mixingDraw old v)[j].getLsbD i = (v[j].getLsbD i ^^ old[j].getLsbD i) := by simp [mixingDraw]
    rw [hdraw]
    rcases h ⟨j, hj⟩ i hi with hold | hnew
    · simp [hold]
    · by_cases hsame : v[j].getLsbD i = old[j].getLsbD i
      · simp [hsame]
      · simp [hnew]

theorem outputsMayShow_of_strobe (h : s.ser = .strobe) (v : Bytes64) :
    outputsMayShow s v ↔
      ∀ j : Fin 64, ∀ i < 8, v[j.val].getLsbD i = s.out[j.val].getLsbD i ∨ v[j.val].getLsbD i = s.ch[j.val].getLsbD i := by
  rw [outputsMayShow, if_pos h]

theorem outputsMayShow_of_not_strobe (h : s.ser ≠ .strobe) (v : Bytes64) : outputsMayShow s v ↔ v = s.out := by
  rw [outputsMayShow, if_neg h]

/-- Settles O39: bit by bit a value is old or new exactly when it is a mixture, and `strobeEnd` makes OUT the chain. -/
theorem outputsAreOldOrNewDuringThePulse : Obligations.OutputsAreOldOrNewDuringThePulse := by
  intro s t rest hser hi hstep v
  have hshow := outputsMayShow_of_strobe hser v
  refine ⟨hshow, hshow.trans exists_mixBytes_iff.symm, ?_⟩
  cases (step_strobeEnd hi hser).symm.trans hstep
  exact outputsMayShow_of_not_strobe (by simp) v

/-! ### The held write -/

/-- A held write that proceeds does what the same write does when the host issues it and it does not hold. -/
theorem step_heldWrite_eq_issued {p : PortWrite} (hser : s.ser = .idle) (hi : s.inputs = .heldWrite :: rest)
    (hheld : s.held = some p) : step s = step { s with inputs := issued p :: rest, held := none } := by
  have hretry : TakesWrite .heldWrite { s with inputs := rest } p { s with inputs := rest, held := none } :=
    ⟨hser, .inr ⟨rfl, hheld, rfl⟩⟩
  have hissue : TakesWrite (issued p) { s with inputs := rest, held := none } p { s with inputs := rest, held := none } :=
    ⟨hser, .inl ⟨rfl, rfl, rfl⟩⟩
  exact (step_cons hi).trans (hretry.takeInput_eq.trans hissue.takeInput_eq.symm)

/-- Settles O11: the held write does what an issued one does, which is known of a CMD write, of a stray byte and of a payload
byte. -/
theorem heldWriteProceedsWhenIdle : Obligations.HeldWriteProceedsWhenIdle := by
  intro s u w rest hser hi
  constructor
  · intro hheld hu
    rw [step_heldWrite_eq_issued hser hi hheld]
    exact stepRunsTheDecodedCommand { s with inputs := issued (.cmd w) :: rest, held := none } u w rest rfl hser rfl hu
  · intro hheld
    rw [step_heldWrite_eq_issued hser hi hheld]
    constructor
    · intro hldp
      exact (step_data_write (s := { s with inputs := issued (.data w) :: rest, held := none }) rfl hser rfl).trans
        (congrArg Host.Outcome.next (dataWrite_of_not_ldp (s := { s with inputs := rest, held := none }) hldp))
    · exact payloadBytesAreStagedAndTheLastCommits { s with inputs := issued (.data w) :: rest, held := none } w rest rfl
        hser rfl

/-! ### Draws -/

theorem chainAfterReset_of_xmit (h : s.ser = .xmit k) : chainAfterReset s = drawnBytes (s.draws + 1) := by
  simp [chainAfterReset, h]

theorem outAfterReset_of_strobe (h : s.ser = .strobe) :
    outAfterReset s = mixBytes (drawnBytes (s.draws + 1)) s.out s.ch := by
  simp [outAfterReset, h]

@[simp] theorem atDecode_draws (s : State) : (atDecode s).draws = s.draws := by rw [atDecode_frame]

@[simp] theorem dataWrite_draws (w : Word) (s : State) : (dataWrite w s).draws = s.draws := by rw [dataWrite_frame]

/-- No step draws but a reset, a power cycle and an enabled timeout. -/
theorem step_draws_of_no_draw (hstep : step s = .next t) (hreset : ¬resets s)
    (habort : ¬(s.inputs.head? = some .txTimeout ∧ (∃ k, s.ser = .xmit k) ∧ s.txTimeout.isSome = true)) :
    t.draws = s.draws := by
  rcases step_effect hstep with ⟨-, rfl⟩ | ⟨e, rest, hi, heffect⟩
  · rfl
  cases heffect with
  | command w i u taken _ runs =>
    obtain ⟨q, rfl⟩ := taken.exists_held
    rw [exec_draws runs, atDecode_draws]
  | illegalWord w u taken _ result =>
    obtain ⟨q, rfl⟩ := taken.exists_held
    rw [result, raiseError_draws, atDecode_draws]
  | data w u taken result =>
    obtain ⟨q, rfl⟩ := taken.exists_held
    rw [result, dataWrite_draws]
  | sends k _ _ result => rw [result, sendByte_draws]
  | aborts k input guard enabled =>
    subst e
    exact absurd ⟨hi ▸ rfl, ⟨k, guard⟩, Option.isSome_iff_ne_none.2 enabled⟩ habort
  | resets input => exact absurd (resets_of_reset (input ▸ hi)) hreset
  | powersUp input => exact absurd (resets_of_powerUp (input ▸ hi)) hreset
  | holds | notEnabled | reads | statusWrite | brightWrite | stillHeld | latches | passedOver =>
    subst t
    rfl

/-- Settles O53: each of the three inputs that draw makes its step alone, and no other step draws. -/
theorem eachDrawIsUsedOnce : Obligations.EachDrawIsUsedOnce := by
  intro s t hstep
  refine ⟨fun hhead => ?_, fun hhead => ?_, fun k hhead hser ht => ?_, step_draws_of_no_draw hstep⟩ <;>
    obtain ⟨rest, hi⟩ := List.head?_eq_some_iff.1 hhead
  · cases (step_cons hi).symm.trans hstep
    exact ⟨rfl, rfl, fun _ hser => chainAfterReset_of_xmit hser, outAfterReset_of_strobe⟩
  · cases (step_cons hi).symm.trans hstep
    exact ⟨rfl, rfl, rfl, rfl⟩
  · cases (step_txTimeout hi hser ht).symm.trans hstep
    exact ⟨rfl, rfl⟩

end Sys2Proof.Machine
end

section
/-! PROOFS. The statements of spec/42_host_access.md: while a flush runs CMD and DATA writes hold and every other access is made
at once, what each register answers and takes, and DUTY. -/

namespace Sys2Proof.Machine

variable {s : State} {rest : List Input}

/-! ### The writes that hold -/

/-- During a flush a CMD or DATA write that the host issues holds. -/
theorem step_issued_of_busy {p : PortWrite} (hi : s.inputs = issued p :: rest) (hheld : s.held = none)
    (hbusy : s.ser ≠ .idle) : step s = .next (park p { s with inputs := rest }) := by
  have hissue : issueWrite p { s with inputs := rest } = .next (park p { s with inputs := rest }) := if_neg hbusy
  cases p <;> exact (step_host hi (mayIssue_of_free hheld)).trans hissue

/-- During a flush the retry of a held write changes nothing. -/
theorem step_heldWrite_of_busy (hi : s.inputs = .heldWrite :: rest) (hbusy : s.ser ≠ .idle) :
    step s = .next { s with inputs := rest } := by
  rcases retryHeld_cases { s with inputs := rest } with ⟨p, -, hidle, -⟩ | ⟨-, hstay⟩
  · exact absurd hidle hbusy
  · exact (step_cons hi).trans hstay

/-- Settles O9: an issued write holds, and a retry leaves the held write where it is. -/
theorem commandAndDataWritesHoldDuringAFlush : Obligations.CommandAndDataWritesHoldDuringAFlush :=
  fun _ w _ hbusy =>
    ⟨fun hheld => ⟨fun hi => step_issued_of_busy (p := .cmd w) hi hheld hbusy,
      fun hi => step_issued_of_busy (p := .data w) hi hheld hbusy⟩,
    fun hi => step_heldWrite_of_busy hi hbusy⟩

/-! ### The accesses that never hold -/

/-- A read never holds, and its only effect is the answer. -/
theorem step_read {addr : BitVec 2} (hi : s.inputs = .host (.read addr) :: rest) (h : s.held = none ∨ s.ser ≠ .idle) :
    step s = .next (answer (readReg s (Reg.ofAddr addr)) { s with inputs := rest }) :=
  step_host hi (mayIssue_neverHolds rfl h)

/-- The value of two bit fields side by side. -/
theorem toNat_append_eq_add {m n : Nat} (x : BitVec m) (y : BitVec n) : (x ++ y).toNat = 2 ^ n * x.toNat + y.toNat := by
  rw [BitVec.toNat_append, Nat.shiftLeft_eq, mul_comm, Nat.two_pow_add_eq_or_of_lt y.isLt]

theorem toNat_busy (s : State) : (busy s).toNat = if s.ser = .idle then 0 else 1 := by
  by_cases h : s.ser = .idle <;> simp [busy, h]

/-- STATUS as a sum of its fields at their places (42_host_access R83). -/
theorem statusWord_toNat (s : State) :
    (statusWord s).toNat =
      64 * s.ldcnt.val + 8 * s.err.code.toNat + 4 * s.ldp.toNat + 2 * s.pix.toNat + if s.ser = .idle then 0 else 1 := by
  have hcount : (BitVec.ofNat 6 s.ldcnt.val).toNat = s.ldcnt.val := Nat.mod_eq_of_lt s.ldcnt.isLt
  simp only [statusWord, toNat_append_eq_add, hcount, BitVec.toNat_ofBool, toNat_busy, BitVec.toNat_zero]
  omega

/-- Settles O40: the read answers the word of the fields. -/
theorem statusReadAnswersTheFields : Obligations.StatusReadAnswersTheFields := fun s _ h hi =>
  ⟨statusWord s, step_read hi h, statusWord_toNat s⟩

/-- Settles O41: the write never holds, and its effect is to clear the error record. -/
theorem statusWriteClearsErr : Obligations.StatusWriteClearsErr := fun _ _ _ h hi =>
  step_host hi (mayIssue_neverHolds rfl h)

/-- A BRIGHT write never holds, and takes the low byte. -/
theorem step_bright_write {w : Word} (hi : s.inputs = .host (.write 3 w) :: rest) (h : s.held = none ∨ s.ser ≠ .idle) :
    step s = .next (setBright (lowByte w) { s with inputs := rest }) :=
  step_host hi (mayIssue_neverHolds rfl h)

/-- The low byte as a residue. -/
theorem lowByte_eq_ofNat_mod (w : Word) : lowByte w = BitVec.ofNat 8 (w.toNat % 256) :=
  BitVec.eq_of_toNat_eq (by simp [lowByte])

/-- Settles O42: the read answers BRIGHT extended by zeros, and the write takes the low byte. -/
theorem brightReadsAndWrites : Obligations.BrightReadsAndWrites := by
  intro s w rest h
  constructor
  · intro hi
    rw [BitVec.ofNat_toNat]
    exact step_read hi h
  · intro hi
    rw [← lowByte_eq_ofNat_mod]
    exact step_bright_write hi h

/-- Settles O43: a read of either register answers 0. -/
theorem commandAndDataReadZero : Obligations.CommandAndDataReadZero := by
  rintro s a rest h (rfl | rfl) hi
  · exact step_read hi h
  · exact step_read hi h

/-! ### DUTY -/

theorem asFraction_mem_Icc (q : Rat) : asFraction q ∈ Set.Icc 0 1 :=
  ⟨le_max_left .., max_le zero_le_one (min_le_left ..)⟩

theorem duty_zero : duty 0 = asFraction (Config.freeDuty 0) := min_self _

/-- Settles O60: DUTY is cut to a fraction and to its value at 0. -/
theorem brightZeroIsBrightest : Obligations.BrightZeroIsBrightest := by
  intro b
  obtain ⟨hnonneg, -⟩ := asFraction_mem_Icc (Config.freeDuty b)
  obtain ⟨hnonneg0, hle0⟩ := asFraction_mem_Icc (Config.freeDuty 0)
  rw [duty_zero]
  exact ⟨le_min hnonneg hnonneg0, min_le_right .., hle0⟩

end Sys2Proof.Machine
end

section
/-! PROOFS. The statements of spec/60_exceptions.md: a stray DATA write only records its error, and a recorded error is kept
until a STATUS write or a reset clears it. -/

namespace Sys2Proof.Machine

variable {s t u : State}

/-! ### StrayData -/

/-- Settles O29: the write is taken, and with no LOAD pending it only raises StrayData. -/
theorem strayDataIsDropped : Obligations.StrayDataIsDropped := by
  intro s w rest hi hser hheld hldp
  have hdrop : dataWrite w { s with inputs := rest } = raiseError .strayData { s with inputs := rest } :=
    dataWrite_of_not_ldp hldp
  rw [step_data_write hi hser hheld, hdrop, raiseError]

/-! ### The first error is kept -/

/-- From `s` to `t` a recorded error is kept (60_exceptions R91). -/
def ErrorKept (s t : State) : Prop := s.err ≠ .noError → t.err = s.err

theorem ErrorKept.of_eq (h : t.err = s.err) : ErrorKept s t := fun _ => h

theorem ErrorKept.trans (h : ErrorKept s t) (h' : ErrorKept t u) : ErrorKept s u := fun herr =>
  (h' (h herr ▸ herr)).trans (h herr)

/-- A second error is not recorded (60_exceptions R91). -/
theorem raiseError_errorKept (e : ErrorCode) (s : State) : ErrorKept s (raiseError e s) := fun herr => if_neg herr

/-- The abort of a flush raises TxTimeout like any other error (60_exceptions R95). -/
theorem abortFlush_errorKept (s : State) : ErrorKept s (abortFlush s) := fun herr => if_neg herr

/-- LoadAbandoned, the only error raised at decoding, does not replace a recorded one (60_exceptions R94). -/
theorem atDecode_errorKept (s : State) : ErrorKept s (atDecode s) := fun herr => by simp [atDecode_eq, herr]

theorem exec_errorKept {i : Instr} (h : exec i s = .next t) : ErrorKept s t := by
  rw [exec_frame h]
  exact .of_eq rfl

/-- A DATA write stages its byte, or it raises StrayData. -/
theorem dataWrite_errorKept (w : Word) (s : State) : ErrorKept s (dataWrite w s) := by
  cases hldp : s.ldp with
  | false =>
    rw [dataWrite_of_not_ldp hldp]
    exact raiseError_errorKept _ s
  | true =>
    rw [dataWrite_of_ldp hldp, payload_frame]
    exact .of_eq rfl

theorem TakesWrite.errorKept {e : Input} {p : PortWrite} (h : TakesWrite e s p u) : ErrorKept s u := by
  rw [h.state_eq]
  exact .of_eq rfl

/-- An input keeps a recorded error, or it clears the record. -/
theorem InputEffect.error_kept_or_cleared {e : Input} (h : InputEffect e s t) :
    ErrorKept s t ∨ (t.err = .noError ∧ ((∃ w, e = .host (.write 2 w)) ∨ e = .reset ∨ e = .powerUp)) := by
  cases h with
  | command w i u taken _ runs =>
    exact .inl ((taken.errorKept.trans (atDecode_errorKept u)).trans (exec_errorKept runs))
  | illegalWord w u taken _ result =>
    subst t
    exact .inl ((taken.errorKept.trans (atDecode_errorKept u)).trans (raiseError_errorKept _ _))
  | data w u taken result =>
    subst t
    exact .inl (taken.errorKept.trans (dataWrite_errorKept w u))
  | sends k _ _ result => exact .inl (.of_eq (result ▸ sendByte_err s k))
  | aborts k _ _ _ result => exact .inl (result ▸ abortFlush_errorKept s)
  | statusWrite w input result => exact .inr ⟨result ▸ rfl, .inl ⟨w, input⟩⟩
  | resets input result => exact .inr ⟨result ▸ rfl, .inr (.inl input)⟩
  | powersUp input result => exact .inr ⟨result ▸ rfl, .inr (.inr input)⟩
  | holds | notEnabled | reads | brightWrite | stillHeld | latches | passedOver =>
    subst t
    exact .inl (.of_eq rfl)

/-- Settles O48: every input but a STATUS write, a reset and a power cycle keeps the recorded error. -/
theorem firstErrorIsKeptUntilCleared : Obligations.FirstErrorIsKeptUntilCleared := by
  intro s t hstep herr
  rcases step_effect hstep with ⟨-, rfl⟩ | ⟨e, rest, hi, heffect⟩
  · exact .inl rfl
  rcases heffect.error_kept_or_cleared with hkept | ⟨hnone, ⟨w, rfl⟩ | rfl | rfl⟩
  · exact .inl (hkept herr)
  · exact .inr ⟨hnone, .inl ⟨w, hi ▸ rfl⟩⟩
  · exact .inr ⟨hnone, .inr (resets_of_reset hi)⟩
  · exact .inr ⟨hnone, .inr (resets_of_powerUp hi)⟩

end Sys2Proof.Machine
end

section
/-! PROOFS. The statements of spec/70_reset_and_hazards.md: what the Reset input and a power cycle make of each field, and how CH
and OUT follow the serializer's state. -/

namespace Sys2Proof.Machine

variable {s : State}

/-! ### CH and OUT over a reset -/

/-- With no byte in flight a reset keeps the chain (70 R104, R105). -/
theorem chainAfterReset_of_not_xmit (h : ∀ k, s.ser ≠ .xmit k) : chainAfterReset s = s.ch := by
  by_contra hne
  obtain ⟨k, hser⟩ := xmit_of_chainAfterReset_ne hne
  exact h k hser

/-- Without a latch pulse a reset keeps the outputs (70 R104, R105). -/
theorem outAfterReset_of_not_strobe (h : s.ser ≠ .strobe) : outAfterReset s = s.out :=
  not_imp_comm.1 strobe_of_outAfterReset_ne h

/-- A reset during the latch pulse leaves in each bit of OUT the old bit or the bit of CH, because it mixes the two (70 R104). -/
theorem outAfterReset_bit_of_strobe (h : s.ser = .strobe) : ∀ j : Fin 64, ∀ i < 8,
    (outAfterReset s)[j.val].getLsbD i = s.out[j.val].getLsbD i ∨
      (outAfterReset s)[j.val].getLsbD i = s.ch[j.val].getLsbD i :=
  exists_mixBytes_iff.1 ⟨_, outAfterReset_of_strobe h⟩

/-! ### Reset and power-up -/

/-- After a reset every byte of FB is zero (70 R103). -/
theorem fbByte_resetInput (s : State) (a : Nat) : fbByte (resetInput s) a = 0x00 := read_nil a

/-- After a power cycle every byte of FB is zero (70 R106). -/
theorem fbByte_powerUp (s : State) (a : Nat) : fbByte (powerUp s) a = 0x00 := read_nil a

/-- Settles O55: memory is empty, the other fields of the block are constants, and CH and OUT follow the serializer. -/
theorem resetInputSetsTheBlock : Obligations.ResetInputSetsTheBlock := by
  intro s rest hi
  have hstep : step s = .next (resetInput { s with inputs := rest }) := step_cons hi
  refine ⟨_, hstep, fun a _ => fbByte_resetInput _ a, rfl, fun hser => ?_, fun hser => ?_, fun hser => ?_⟩
  · exact chainAfterReset_of_not_xmit hser
  · exact outAfterReset_of_not_strobe hser
  · exact outAfterReset_bit_of_strobe hser

/-- Settles O56: memory is empty and the other fields of the block are constants, as after a reset. That the model's traces and
its parameter stay is log 17. -/
theorem powerUpResetsTheBlock : Obligations.PowerUpResetsTheBlock := by
  intro s rest hi
  have hstep : step s = .next (powerUp { s with inputs := rest }) := step_cons hi
  exact ⟨_, hstep, fun a _ => fbByte_powerUp _ a, rfl⟩

end Sys2Proof.Machine
end
